-- ==== Sys2Proof/Word.lean ====
section
/-! DEFINITION. The word types of the part's bus and of its record formats (spec/00_scope.md, "Words and bits"). -/

namespace Sys2Proof

/-- One bus word: 32 bits, bit 0 the least significant. -/
abbrev Word := BitVec 32

/-- One byte of a word. -/
abbrev Byte := BitVec 8

/-- A force in counts, the unsigned 16-bit unit of the front end (00_scope.md, "Force"). -/
abbrev Counts := BitVec 16

end Sys2Proof
end

