-- ==== Sys2Proof/Syntax.lean ====
section
/-! DEFINITION. The commands of the block: one constructor for each row of spec/opcode_table.json, in the table's order.
A command is one event ("step") of the part. Its operands are what the outside supplies: a request at a near port, an
answer of memory, straps and line levels, and, where the spec lets two things of one event come in either order, which
one comes first. -/

namespace Sys2Proof

/-- The two near ports: A faces the acquisition front end, S the supervisory processor (R170). -/
inductive PortId where
  | a
  | s
  deriving DecidableEq, Repr

/-- One beat of a WRITE: a word and its four byte enables; enable bit i covers bits 8i..8i+7 (R145, R170). -/
structure Beat where
  data : Word
  enable : BitVec 4
  deriving DecidableEq, Repr

/-- A WRITE request: the address of the first beat and one entry a beat; beat j is at addr + 4j (R170). -/
structure Write where
  addr : Word
  beats : List Beat
  deriving DecidableEq, Repr

/-- A request as a master presents it; a READ has a beat count, a WRITE has its beats (R170). -/
inductive Request where
  | read (addr : Word) (count : Nat)
  | write (w : Write)
  deriving DecidableEq, Repr

/-- The words of one answer of memory to a read: as many as the read has beats count, from the first (R192). -/
abbrev LineData := Vector Word 16

/-- The commands, one for each row of spec/opcode_table.json. -/
inductive Instr where
  /-- POWER_ON_RESET: the strap levels sampled (R141, R156, R181). -/
  | powerOnReset (ctrlBase : Fin 8) (clkSel : Fin 4)
  /-- WARM_RESET: RESET_N is asserted (R107, R179). -/
  | warmReset
  /-- PRESS_ABORT: the line takes this level; the change to asserted is what acts (R100). -/
  | pressAbort (asserted : Bool)
  /-- MALFORMED_REQUEST: a request that is not well formed is presented (R170). -/
  | malformedRequest (p : PortId) (r : Request)
  /-- LANDING_WRITE: a write into the live landing footprint is presented (R55). -/
  | landingWrite (p : PortId) (w : Write)
  /-- WAITING_LANDING_WRITE_TAKEN: the landing write waiting at this port finds room (R62). In a run this wait, and those of
  HAZARD_WAIT_END and ARM_WAIT_END, end in the event that ends their cause (log 3). -/
  | waitingLandingWriteTaken (p : PortId)
  /-- PASS_THROUGH_REQUEST: a plain read or write, or a read of the control region, is presented (R175). -/
  | passThroughRequest (p : PortId) (r : Request)
  /-- HAZARD_WAIT_END: the request at this port no longer matches a queued grid beat (R193). -/
  | hazardWaitEnd (p : PortId)
  /-- LOADING_WAIT_END: the control-region request held at this port during LOADING is classified again (R174). -/
  | loadingWaitEnd (p : PortId)
  /-- RECIPE_WRITE: a port S write to the recipe area is presented (R153). -/
  | recipeWrite (w : Write)
  /-- PLAN_WRITE: a port S write to the plan record is presented (R81). -/
  | planWrite (w : Write)
  /-- ARM: a port S write that carries an arming request is presented (R82). -/
  | arm (w : Write)
  /-- ARM_WAIT_END: the arming write held at port S finds the refusal entry free and no refusal owed (R83). -/
  | armWaitEnd
  /-- ABORT: a port S write of command code 1 is presented (R98). -/
  | abort (w : Write)
  /-- HALT_CLEAR: a port S write of command code 2 is presented (R131). -/
  | haltClear (w : Write)
  /-- FORCE_HALT_ON: a port S write of command code 3 is presented (R132). -/
  | forceHaltOn (w : Write)
  /-- FORCE_HALT_OFF: a port S write of command code 4 is presented (R132). -/
  | forceHaltOff (w : Write)
  /-- FORCE_RELEASE: a port S write of command code 5 is presented (R132). -/
  | forceRelease (w : Write)
  /-- RELEASE: a port S write of command code 6 is presented (R164). -/
  | release (w : Write)
  /-- UNKNOWN_COMMAND: a port S write of any other beat to the command word is presented (R144). -/
  | unknownCommand (w : Write)
  /-- EVENT_ACKNOWLEDGE: a port S write to the event acknowledge word is presented (R136). -/
  | eventAcknowledge (w : Write)
  /-- EVENT_ENABLE: a port S write to the event enable word is presented (R137). -/
  | eventEnable (w : Write)
  /-- PROTECTION_WORD_WRITE: a port S write to the protection word is presented (R160). -/
  | protectionWordWrite (w : Write)
  /-- RING_CONSUMER_INDEX_WRITE: a port S write to the ring consumer index word is presented (R186). -/
  | ringConsumerIndexWrite (w : Write)
  /-- CONTROL_REGION_WRITE: any other write to the control region is presented (R142, R162). -/
  | controlRegionWrite (p : PortId) (w : Write)
  /-- ARMING_CHECK: the arming walk makes its next PARAMETER check (R88). -/
  | armingCheck
  /-- ARMING_WALK_END: the arming walk comes to its end (R89). -/
  | armingWalkEnd
  /-- ARM_EXPIRY: the arm timer runs out (R92). -/
  | armExpiry
  /-- STALL_EXPIRY: the stall timer runs out (R93). -/
  | stallExpiry
  /-- CLOSING_WALK_STEP: the closing walker takes its next step (R110). -/
  | closingWalkStep
  /-- MEMORY_GRANT: the arbiter grants port M (R191). -/
  | memoryGrant
  /-- RECORD_TO_CONTROL_REGION: the head record would meet the control region (R184); flagsFirst as in
  RECORD_WRITE_COMPLETE. -/
  | recordToControlRegion (flagsFirst : Bool)
  /-- PASS_THROUGH_ANSWER: memory answers the oldest transaction, a pass-through one (R175, R192). -/
  | passThroughAnswer (okay : Bool) (data : LineData)
  /-- GRID_WRITE_ANSWER: memory answers the oldest transaction, a remap beat write (R194). -/
  | gridWriteAnswer (okay : Bool)
  /-- RECORD_WRITE_COMPLETE: memory answers the oldest transaction, a record write (R183). flagsFirst says which of the two
  blocks acts first: the line and event unit raises the event flags, or the stroke controller ends REPORTING (R106) and takes
  the arming request that waited for the refusal entry (R182). -/
  | recordWriteComplete (okay : Bool) (flagsFirst : Bool)
  /-- STATUS_WRITE_COMPLETE: memory answers the oldest transaction, a status write (R187). -/
  | statusWriteComplete (okay : Bool)
  /-- LOAD_READ_ANSWER: memory answers the oldest transaction, a read of the power-on load (R156). -/
  | loadReadAnswer (okay : Bool) (data : LineData)
  /-- RESET_N_DEASSERTED: RESET_N is deasserted; of two held-off requests, the one at port `first` is presented first
  (R179). -/
  | resetNDeasserted (first : PortId)
  deriving DecidableEq, Repr

end Sys2Proof
end

