-- ==== Sys2Proof/Config.lean ====
section
/-! DEFINITION. The numbers the spec fixes for every part. The model has no free value: every value the spec leaves
to somebody else (memory's data, the straps, the line levels, the order of two events) is an operand of a command. -/

namespace Sys2Proof.Config

/-- Tool cells of the sensing array, hence pin contexts and pin map entries (R25, R148). -/
def cells : Nat := 1024

/-- Bytes of the recipe area, offsets 0000h..23FFh (R153). -/
def recipeBytes : Nat := 9216

/-- Bytes of the control region (R141). -/
def regionBytes : Nat := 16384

/-- Spacing of the control region bases that CTRL_BASE selects, 2000_0000h (R141). -/
def regionSpacing : Nat := 536870912

/-- The address space of port M, 1_0000_0000h bytes (R18). -/
def addressSpace : Nat := 4294967296

/-- Offset of the plan record (R149). -/
def planOffset : Nat := 0x2400

/-- Offset of the go word (R82). -/
def goOffset : Nat := 0x241C

/-- Offset of the command word (R143). -/
def commandOffset : Nat := 0x2420

/-- Offset of the event acknowledge word (R143). -/
def acknowledgeOffset : Nat := 0x2424

/-- Offset of the event enable word (R143). -/
def enableOffset : Nat := 0x2428

/-- Offset of the protection word (R143). -/
def protectionOffset : Nat := 0x242C

/-- Offset of the ring consumer index word (R143). -/
def consumerOffset : Nat := 0x2430

/-- Offset of the status block (R150). -/
def statusOffset : Nat := 0x2480

/-- Places of the remap queue (R61). -/
def remapPlaces : Nat := 64

/-- Entries at which the remap queue wins every grant (R191). -/
def highWater : Nat := 48

/-- General entries of the report queue (R182). -/
def generalEntries : Nat := 14

/-- Most transactions outstanding at port M (R192). -/
def maxOutstanding : Nat := 4

/-- Reads of the power-on load (R156). -/
def loadReads : Nat := 145

/-- Reads of the power-on load that cover the recipe area (R156). -/
def recipeLines : Nat := 144

/-- Bus clock periods of one timebase period, by CLK_SEL (R181). -/
def divisor : Fin 4 → Nat
  | 0 => 100
  | 1 => 125
  | 2 => 160
  | 3 => 200

end Sys2Proof.Config
end

