-- ==== Sys2Proof/Machine/State.lean ====
section
/-! DEFINITION. The state of the part, one structure for each block of spec/00_scope.md's table, as plain data; the state after
power-on reset; and the reasons a step could stop. -/

namespace Sys2Proof.Machine

/-! ## The stroke controller (spec/04_the_stroke.md) -/

/-- The seven stroke states (R78); status code 0..6 in this order (R150). -/
inductive StrokeState where
  | loading
  | idle
  | arming
  | armed
  | acquiring
  | closing
  | reporting
  deriving DecidableEq, Repr

/-- How a stroke ended (R95, R118). -/
inductive StrokeOutcome where
  | complete
  | expired
  | stalled
  | halted
  | pressStopped
  | aborted
  | recipeChanged
  deriving DecidableEq, Repr

/-- A plan record: its eight words as written (R149). -/
abbrev Plan := Vector Word 8

/-- Why an arming was refused (R152). -/
inductive RefusalReason where
  | parameter
  | checksum
  | unfrozen
  | eventPending
  | halted
  | pressNotReady
  | abandoned
  | superseded
  deriving DecidableEq, Repr

/-- The kind of check a PARAMETER refusal names (R17). -/
inductive DetailKind where
  | none
  | geometry
  | plan
  | slot
  | profile
  deriving DecidableEq, Repr

/-- A REFUSAL, fixed when it arises (R87). -/
structure RefusalRecord where
  strokeNumber : BitVec 16
  reason : RefusalReason
  detailKind : DetailKind
  detailIndex : Nat
  deriving DecidableEq, Repr

/-- The check the arming walk makes next (R88): one of checks 1..16, the checks of one active slot, the profile of one
used pin, or none, when the walk has come to its end. -/
inductive WalkPosition where
  | check (n : Nat)
  | slot (n : Nat)
  | pin (c : Nat)
  | finished
  deriving DecidableEq, Repr

/-- The stroke controller's state (section 4, R78). A timer is stopped (none) or holds the timebase periods that remain. -/
structure StrokeBlock where
  state : StrokeState
  latched : Plan
  pendingPlan : Option Plan
  owed : List RefusalRecord
  walk : WalkPosition
  armTimer : Option Nat
  stallTimer : Option Nat
  outcome : Option StrokeOutcome
  samplesTaken : Nat
  stepsTaken : Nat
  gridWriteError : Bool
  sumUsed : Word
  deriving DecidableEq, Repr

/-! ## The recipe shadow (spec/07_the_control_region_and_record_formats.md, 7.8) -/

/-- An addressed buffer: rising offsets, no zero byte listed; an unlisted byte reads 0 (R154). -/
abbrev Memory := List Host.Cell

/-- The recipe shadow, its sum and the plan staging copy (R81, R153, R154). -/
structure RecipeBlock where
  shadow : Memory
  sum : Word
  staging : Plan
  deriving DecidableEq, Repr

/-! ## The pin checker (spec/02_checking_a_sample.md) -/

/-- Health of a pin (R27). -/
inductive Health where
  | unused
  | good
  | failed
  deriving DecidableEq, Repr

/-- Progress of a pin against its profile's zones (R28). -/
inductive Progress where
  | before
  | inZone
  | between
  | after
  | frozen
  deriving DecidableEq, Repr

/-- The nine fault kinds; kind code 1..9 in this order (R151). -/
inductive FaultKind where
  | noEntry
  | lowForce
  | highForce
  | collapse
  | notSeated
  | overforce
  | overrange
  | cellFault
  | incomplete
  deriving DecidableEq, Repr

/-- The context of one tool cell (R25). The fault set has bit k - 1 for kind code k (R151). -/
structure PinContext where
  health : Health
  progress : Progress
  zoneIndex : Nat
  tally : Nat
  zoneLatch : Bool
  entryStep : Option Nat
  seatStep : Option Nat
  seated : Bool
  peakForce : Counts
  peakStep : Option Nat
  previousForce : Option Counts
  faults : BitVec 9
  firstFault : Option FaultKind
  firstFaultStep : Option Nat
  samplesChecked : Nat
  deriving DecidableEq, Repr

/-- A context as the clearing of R26 leaves it, with the health it is given. -/
def PinContext.cleared (h : Health) : PinContext where
  health := h
  progress := .before
  zoneIndex := 1
  tally := 0
  zoneLatch := false
  entryStep := none
  seatStep := none
  seated := false
  peakForce := 0
  peakStep := none
  previousForce := none
  faults := 0
  firstFault := none
  firstFaultStep := none
  samplesChecked := 0

/-- The pin contexts and the failing counts (R25, R49). -/
structure CheckerBlock where
  pins : Vector PinContext 1024
  slotFailing : Vector Nat 4
  totalFailing : Nat
  deriving DecidableEq, Repr

/-! ## The landing remapper (spec/03_the_landing_window_and_the_grid.md) -/

/-- One stamped beat on its way to the grid (R61); `current` is the mark of R194, `issued` says that its write has been issued
at port M (R190). -/
structure RemapEntry where
  addr : Word
  data : Word
  current : Bool
  issued : Bool
  deriving DecidableEq, Repr

/-- The landing sequence pointer k (R58) and the remap queue, oldest first (R61). -/
structure RemapBlock where
  sequence : Nat
  queue : List RemapEntry
  deriving DecidableEq, Repr

/-! ## The closing walker and the records (spec/05_the_closing_walk_and_verdicts.md) -/

/-- Walker state (R108). -/
inductive WalkerState where
  | stopped
  | walking
  | paused
  deriving DecidableEq, Repr

/-- The record a PAUSED walk waits to queue; it is composed when it enters (R114, R116). -/
inductive HeldRecord where
  | pinRecord
  | slotVerdict
  deriving DecidableEq, Repr

/-- The closing walker (R108). The cursor's cell is one past the slot's last cell when its SLOT_VERDICT is due. -/
structure WalkerBlock where
  state : WalkerState
  cursorSlot : Nat
  cursorCell : Nat
  held : Option HeldRecord
  written : Nat
  omitted : Nat
  rejectMask : BitVec 4
  deriving DecidableEq, Repr

/-- A PIN_RECORD (R115). -/
structure PinRecord where
  strokeNumber : BitVec 16
  slot : Nat
  cell : Nat
  label : BitVec 16
  faults : BitVec 9
  firstFault : Option FaultKind
  firstFaultStep : Option Nat
  entryStep : Option Nat
  seatStep : Option Nat
  peakForce : Counts
  peakStep : Option Nat
  zoneReached : Nat
  samplesChecked : Nat
  deriving DecidableEq, Repr

/-- Outcome of a SLOT_VERDICT (R117). -/
inductive SlotOutcome where
  | accept
  | reject
  | inconclusive
  deriving DecidableEq, Repr

/-- A SLOT_VERDICT (R116). -/
structure SlotVerdict where
  strokeNumber : BitVec 16
  slot : Nat
  connectorCode : BitVec 16
  outcome : SlotOutcome
  pinsChecked : Nat
  pinsFailing : Nat
  allowance : Nat
  deriving DecidableEq, Repr

/-- A STROKE_VERDICT as composed; its two pin record counts are filled in when its write is issued (R118, R119). -/
structure StrokeVerdict where
  strokeNumber : BitVec 16
  outcome : StrokeOutcome
  stepsTaken : Nat
  samplesTaken : Nat
  totalFailing : Nat
  gridWriteError : Bool
  sumUsed : Word
  rejectMask : BitVec 4
  deriving DecidableEq, Repr

/-- The four kinds of record (R151). -/
inductive Record where
  | pin (r : PinRecord)
  | slot (r : SlotVerdict)
  | stroke (r : StrokeVerdict)
  | refusal (r : RefusalRecord)
  deriving DecidableEq, Repr

/-! ## The report writer (spec/10_the_verdict_ring_and_status_block.md) -/

/-- An entry of the report queue; `issued` says that its ring write has been issued (R183). -/
structure ReportEntry where
  record : Record
  issued : Bool
  deriving DecidableEq, Repr

/-- The result of the last command (R144); status code 0..5 in this order (R150). -/
inductive CommandResult where
  | none
  | done
  | busy
  | prot
  | notEmpty
  | unknown
  deriving DecidableEq, Repr

/-- Kind of a write of the report writer (R187). -/
inductive WriteKind where
  | record
  | status
  deriving DecidableEq, Repr

/-- The report writer (section 10). `waitMarked`: the record now at the head has met the full ring and raised RING_WAIT, which
it does once (R185). -/
structure WriterBlock where
  queue : List ReportEntry
  producer : Nat
  consumer : Nat
  lap : Bool
  dirty : Bool
  memErrAddr : Word
  cmdCode : Word
  cmdResult : CommandResult
  lastIssued : WriteKind
  waitMarked : Bool
  loadIssued : Nat
  loadAnswered : Nat
  deriving DecidableEq, Repr

/-! ## The line and event unit (spec/06_halt_rdy_and_events.md) -/

/-- The force state (R129); status code 0..2 in this order (R150). -/
inductive ForceState where
  | none
  | forcedOn
  | forcedOff
  deriving DecidableEq, Repr

/-- The nine event flags, at bits 0..8 in this order (R143). -/
inductive EventFlag where
  | verdict
  | refusal
  | halt
  | protect
  | stray
  | ringWait
  | index
  | memerr
  | loaded
  deriving DecidableEq, Repr

/-- The line and event unit, with the levels of the two input lines (true = asserted). -/
structure LineBlock where
  haltLatch : Bool
  force : ForceState
  flags : BitVec 9
  enables : BitVec 9
  firstRefused : Word
  pressAbort : Bool
  resetN : Bool
  deriving DecidableEq, Repr

/-! ## The near ports (spec/09_traffic_through_the_part.md) -/

/-- Why a request waits at its port (R177). -/
inductive WaitCause where
  | loading
  | room
  | refusalEntry
  | hazard
  deriving DecidableEq, Repr

/-- State of a near port with the transaction it holds (R171); `issued`: the transaction has been issued at port M. -/
inductive PortStatus where
  | free
  | waiting (r : Request) (cause : WaitCause)
  | outstanding (r : Request) (issued : Bool)
  | abandoned (r : Request) (issued : Bool)
  deriving DecidableEq, Repr

/-- An answer given at a near port (R172). -/
inductive Answer where
  | readData (data : List Word) (okay : Bool)
  | done
  | trimmed
  | dropped
  | error
  deriving DecidableEq, Repr

/-- A near port: its state, the answer last given, and the requests its master presents while the port holds them off. -/
structure NearPort where
  status : PortStatus
  answer : Option Answer
  heldOff : List Request
  deriving DecidableEq, Repr

/-! ## The memory arbiter (spec/11_memory_port_arbitration.md) -/

/-- The four claimants of port M, in their circular order (R191). -/
inductive Claimant where
  | portA
  | portS
  | remap
  | report
  deriving DecidableEq, Repr

/-- What a transaction outstanding at port M is, for the claimant that takes its answer (R192). -/
inductive TransactionKind where
  | passThrough (p : PortId)
  | remapBeat
  | record
  | status
  | loadRead (line : Nat)
  deriving DecidableEq, Repr

/-- A transaction issued at port M and not answered. `discard`: a warm reset cleared the state its answer would act on (R195).
`advances`: the completion advances the producer index, as it does unless the ring moved meanwhile (R184). -/
structure Transaction where
  kind : TransactionKind
  request : Request
  discard : Bool
  advances : Bool
  deriving DecidableEq, Repr

/-- The memory arbiter: the claimant that won the last grant, and the outstanding transactions, oldest first; the
outstanding count is the length of the list (R192). -/
structure ArbiterBlock where
  pointer : Claimant
  inflight : List Transaction
  deriving DecidableEq, Repr

/-! ## The whole part -/

/-- The state of the part, and the queue of the commands that wait (the model's own). -/
structure State where
  ctrlBase : Fin 8
  clkSel : Fin 4
  prescaler : Nat
  portA : NearPort
  portS : NearPort
  recipe : RecipeBlock
  protection : BitVec 4
  stroke : StrokeBlock
  remap : RemapBlock
  checker : CheckerBlock
  walker : WalkerBlock
  writer : WriterBlock
  lines : LineBlock
  arbiter : ArbiterBlock
  pending : List Instr
  deriving DecidableEq, Repr

/-- Reasons a step stops with a fault: none. The spec gives every event of the part an effect in every state; a command whose
event cannot occur in the state changes nothing (log 1). -/
inductive Fault
  deriving DecidableEq, Repr

/-- Reasons a command is refused. -/
inductive Refusal where
  /-- Raised by `exec` alone, for a row that has no meaning yet; safe. No row is left so. -/
  | notModelled (mnemonic : String)
  deriving DecidableEq, Repr

/-- A near port after power-on reset: FREE, with no transaction (R180); no answer given and nothing held off (log 2, log 7). -/
def NearPort.reset : NearPort where
  status := .free
  answer := none
  heldOff := []

/-- The state after power-on reset, with the straps at 0 and both input lines deasserted (DESIGN CHOICE, log 6). Values the
spec gives: R26, R58, R78, R108, R128, R129, R135, R137, R139, R144, R154, R159, R180, R189, R195. Values it does not
give: log 7. -/
def State.reset : State where
  ctrlBase := 0
  clkSel := 0
  prescaler := 0
  portA := NearPort.reset
  portS := NearPort.reset
  recipe := { shadow := [], sum := 0, staging := Vector.replicate 8 0 }
  protection := 0
  stroke :=
    { state := .loading
      latched := Vector.replicate 8 0
      pendingPlan := none
      owed := []
      walk := .check 1
      armTimer := none
      stallTimer := none
      outcome := none
      samplesTaken := 0
      stepsTaken := 0
      gridWriteError := false
      sumUsed := 0 }
  remap := { sequence := 0, queue := [] }
  checker :=
    { pins := Vector.replicate 1024 (PinContext.cleared .unused)
      slotFailing := Vector.replicate 4 0
      totalFailing := 0 }
  walker :=
    { state := .stopped
      cursorSlot := 0
      cursorCell := 0
      held := none
      written := 0
      omitted := 0
      rejectMask := 0 }
  writer :=
    { queue := []
      producer := 0
      consumer := 0
      lap := false
      dirty := false
      memErrAddr := 0
      cmdCode := 0
      cmdResult := .none
      lastIssued := .status
      waitMarked := false
      loadIssued := 0
      loadAnswered := 0 }
  lines :=
    { haltLatch := false
      force := .none
      flags := 0
      enables := 0
      firstRefused := 0
      pressAbort := false
      resetN := false }
  arbiter := { pointer := .report, inflight := [] }
  pending := []

end Sys2Proof.Machine
end

