-- ==== Sys2Proof/WellFormed.lean ====
section
/-! DEFINITION. Which commands spell their row of the table. A request command's row is decided by the part when it classifies
the request (R173), with the state as it stands; what can be said of the command alone is said here: the form of the
request (R170) and, for the rows of the control region, that a beat addresses the row's word with the row's value. -/

namespace Sys2Proof

/-- Address of the first beat (R170). -/
def Request.addr : Request → Word
  | .read a _ => a
  | .write w => w.addr

/-- Beat count (R170). -/
def Request.count : Request → Nat
  | .read _ n => n
  | .write w => w.beats.length

/-- Well formed: word aligned, 1..16 beats, within one 64-byte line (R170). -/
def Request.wellFormed (r : Request) : Bool :=
  r.addr.toNat % 4 == 0 && decide (1 ≤ r.count) && decide (r.count ≤ 16) &&
    decide (r.addr.toNat % 64 + 4 * r.count ≤ 64)

/-- The offset of an address that lies in one of the eight places the control region may have (R141). -/
def regionOffset (a : Word) : Option Nat :=
  if a.toNat % Config.regionSpacing < Config.regionBytes then some (a.toNat % Config.regionSpacing) else none

/-- The beat of the write that addresses this offset of the control region, if one does. -/
def Write.beatAt (w : Write) (off : Nat) : Option Beat :=
  match regionOffset w.addr with
  | none => none
  | some base => if base ≤ off ∧ (off - base) % 4 = 0 then w.beats[(off - base) / 4]? else none

/-- All four byte enables set. -/
def Beat.full (b : Beat) : Bool := b.enable == 0xF#4

/-- The write is well formed and starts within these offsets of the control region. -/
def Write.within (w : Write) (lo hi : Nat) : Bool :=
  (Request.write w).wellFormed &&
    match regionOffset w.addr with
    | some o => decide (lo ≤ o) && decide (o < hi)
    | none => false

/-- The write is well formed and one of its beats is addressed to this word of the control region. -/
def Write.touches (w : Write) (off : Nat) : Bool :=
  (Request.write w).wellFormed && (w.beatAt off).isSome

/-- The write carries this code to the command word with all four byte enables set (R144). -/
def Write.carriesCommand (w : Write) (code : Nat) : Bool :=
  (Request.write w).wellFormed &&
    match w.beatAt Config.commandOffset with
    | some b => b.full && b.data.toNat == code
    | none => false

/-- The write carries an arming request: the go word, all four byte enables set, value 1 (R82). -/
def Write.carriesArm (w : Write) : Bool :=
  (Request.write w).wellFormed &&
    match w.beatAt Config.goOffset with
    | some b => b.full && b.data == 1#32
    | none => false

/-- The write carries a beat to the command word that is no command of R144. -/
def Write.carriesUnknown (w : Write) : Bool :=
  (Request.write w).wellFormed &&
    match w.beatAt Config.commandOffset with
    | some b => !(b.full && decide (1 ≤ b.data.toNat) && decide (b.data.toNat ≤ 6))
    | none => false

/-- The command spells its row. -/
def Instr.wellFormed : Instr → Bool
  | .malformedRequest _ r => !r.wellFormed
  | .landingWrite _ w => (Request.write w).wellFormed
  | .passThroughRequest _ r => r.wellFormed
  | .recipeWrite w => w.within 0 Config.recipeBytes
  | .planWrite w => w.within Config.planOffset (Config.goOffset + 4)
  | .arm w => w.carriesArm
  | .abort w => w.carriesCommand 1
  | .haltClear w => w.carriesCommand 2
  | .forceHaltOn w => w.carriesCommand 3
  | .forceHaltOff w => w.carriesCommand 4
  | .forceRelease w => w.carriesCommand 5
  | .release w => w.carriesCommand 6
  | .unknownCommand w => w.carriesUnknown
  | .eventAcknowledge w => w.touches Config.acknowledgeOffset
  | .eventEnable w => w.touches Config.enableOffset
  | .protectionWordWrite w => w.touches Config.protectionOffset
  | .ringConsumerIndexWrite w => w.touches Config.consumerOffset
  | .controlRegionWrite _ w => w.within 0 Config.regionBytes
  | .powerOnReset _ _ => true
  | .warmReset => true
  | .pressAbort _ => true
  | .waitingLandingWriteTaken _ => true
  | .hazardWaitEnd _ => true
  | .loadingWaitEnd _ => true
  | .armWaitEnd => true
  | .armingCheck => true
  | .armingWalkEnd => true
  | .armExpiry => true
  | .stallExpiry => true
  | .closingWalkStep => true
  | .memoryGrant => true
  | .recordToControlRegion _ => true
  | .passThroughAnswer _ _ => true
  | .gridWriteAnswer _ => true
  | .recordWriteComplete _ _ => true
  | .statusWriteComplete _ => true
  | .loadReadAnswer _ _ => true
  | .resetNDeasserted _ => true

end Sys2Proof
end

