-- ==== Sys2Proof/Machine/Operands.lean ====
section
/-! DEFINITION. Operand forms: bit fields, byte-enabled words, buffers, the geometry of the control region and the words of a
request. -/

namespace Sys2Proof.Machine

/-- The unsigned value of bits lo..lo + len - 1 of a word (R145). -/
def field (w : Word) (lo len : Nat) : Nat := (w.extractLsb' lo len).toNat

/-- A value laid into bits lo..lo + len - 1 of a word, the other bits 0 (R145). -/
def place (v lo len : Nat) : Word := BitVec.ofNat 32 (v % 2 ^ len * 2 ^ lo)

/-- The word whose bits are the enabled bytes of a beat's enables. -/
def enableMask (e : BitVec 4) : Word :=
  (if e.getLsbD 0 then 0x000000FF#32 else 0#32) ||| (if e.getLsbD 1 then 0x0000FF00#32 else 0#32) |||
    (if e.getLsbD 2 then 0x00FF0000#32 else 0#32) ||| (if e.getLsbD 3 then 0xFF000000#32 else 0#32)

/-- A word after a beat: the enabled bytes from the beat, the others as they stood (R81, R143, R153). -/
def mergeBeat (old : Word) (b : Beat) : Word :=
  (b.data &&& enableMask b.enable) ||| (old &&& ~~~enableMask b.enable)

/-- Byte i of a word (R145). -/
def byteOf (w : Word) (i : Nat) : Byte := w.extractLsb' (8 * i) 8

/-! ## Addressed buffers -/

/-- The byte at an offset; an unlisted byte reads 0 (R154). -/
def Memory.readByte : Memory → Nat → Byte
  | [], _ => 0
  | (b, v) :: m, a => if b = a then v else Memory.readByte m a

/-- Write a byte, keeping the offsets rising and listing no zero. -/
def Memory.writeByte : Memory → Nat → Byte → Memory
  | [], a, v => if v = 0 then [] else [(a, v)]
  | (b, u) :: m, a, v =>
    if a < b then (if v = 0 then (b, u) :: m else (a, v) :: (b, u) :: m)
    else if a = b then (if v = 0 then m else (a, v) :: m)
    else (b, u) :: Memory.writeByte m a v

/-- The canonical form: offsets strictly rising from lo, no zero byte listed. -/
def Memory.wfFrom : Nat → Memory → Bool
  | _, [] => true
  | lo, (a, v) :: m => decide (lo ≤ a) && v != 0 && Memory.wfFrom (a + 1) m

/-- The canonical form of a buffer. -/
def Memory.wf (m : Memory) : Bool := Memory.wfFrom 0 m

/-- The little-endian word at an offset (R145). -/
def Memory.readWord (m : Memory) (a : Nat) : Word :=
  Memory.readByte m (a + 3) ++ Memory.readByte m (a + 2) ++ Memory.readByte m (a + 1) ++ Memory.readByte m a

/-- Store the low byte count of a word's bytes whose enables are set, byte i at a + i (R153). -/
def Memory.writeBeat (m : Memory) (a : Nat) (b : Beat) : Memory :=
  let m0 := if b.enable.getLsbD 0 then Memory.writeByte m a (byteOf b.data 0) else m
  let m1 := if b.enable.getLsbD 1 then Memory.writeByte m0 (a + 1) (byteOf b.data 1) else m0
  let m2 := if b.enable.getLsbD 2 then Memory.writeByte m1 (a + 2) (byteOf b.data 2) else m1
  if b.enable.getLsbD 3 then Memory.writeByte m2 (a + 3) (byteOf b.data 3) else m2

/-- A beat that carries a whole word. -/
def fullBeat (w : Word) : Beat := { data := w, enable := 0xF#4 }

/-! ## Addresses -/

/-- Base of the control region, the sampled CTRL_BASE times 2000_0000h (R141). -/
def State.regionBase (s : State) : Nat := s.ctrlBase.val * Config.regionSpacing

/-- The address lies in the control region (R141). -/
def State.inRegion (s : State) (a : Nat) : Bool :=
  decide (s.regionBase ≤ a) && decide (a < s.regionBase + Config.regionBytes)

/-- The byte address of a natural number, wrapping at 1_0000_0000h. -/
def toAddr (n : Nat) : Word := BitVec.ofNat 32 n

/-- The word addresses of a request: beat j at address + 4j (R170). -/
def Request.wordAddrs (r : Request) : List Word :=
  (List.range r.count).map fun j => toAddr (r.addr.toNat + 4 * j)

/-! ## The near ports -/

/-- The near port of a name. -/
def State.port (s : State) : PortId → NearPort
  | .a => s.portA
  | .s => s.portS

/-- Replace a near port. -/
def State.setPort (s : State) (p : PortId) (np : NearPort) : State :=
  match p with
  | .a => { s with portA := np }
  | .s => { s with portS := np }

/-- The port gives this answer and is FREE (R171). -/
def State.answer (s : State) (p : PortId) (x : Answer) : State :=
  s.setPort p { s.port p with status := .free, answer := some x }

/-- The port holds the request, not yet taken (R177). -/
def State.waitAt (s : State) (p : PortId) (r : Request) (c : WaitCause) : State :=
  s.setPort p { s.port p with status := .waiting r c }

/-- The request is taken and forwarded: the port is OUTSTANDING and its claimant asks for port M (R175). -/
def State.forward (s : State) (p : PortId) (r : Request) : State :=
  s.setPort p { s.port p with status := .outstanding r false }

/-- The port lets go of the request it holds, before that request is classified again (R174). -/
def State.freePort (s : State) (p : PortId) : State :=
  s.setPort p { s.port p with status := .free }

end Sys2Proof.Machine
end

