-- ==== Sys2Proof/Machine/Recipe.lean ====
section
/-! DEFINITION. The recipe and the plan read by field (R146 to R149), which cells are used, the hard bits, and the validity of a
profile. Every reader takes the shadow as it stands (R1). -/

namespace Sys2Proof.Machine

/-! ## Geometry record (R146) -/

/-- Word i of the geometry record. -/
def geometryWord (m : Memory) (i : Nat) : Nat := (m.readWord (4 * i)).toNat

/-- Cell count (R2). -/
def cellCount (m : Memory) : Nat := geometryWord m 0

/-- Landing base (R3). -/
def landingBase (m : Memory) : Nat := geometryWord m 1

/-- Grid base (R3). -/
def gridBase (m : Memory) : Nat := geometryWord m 2

/-- Ring base (R4). -/
def ringBaseField (m : Memory) : Nat := geometryWord m 3

/-- Ring capacity as written (R4). -/
def ringCapacityField (m : Memory) : Nat := geometryWord m 4

/-- A power of two from 16 to 4096 (R4). -/
def validCapacity (n : Nat) : Bool :=
  [16, 32, 64, 128, 256, 512, 1024, 2048, 4096].contains n

/-! ## Slot table (R146) -/

/-- Word i of slot record n. -/
def slotWord (m : Memory) (n i : Nat) : Word := m.readWord (0x40 + n * 0x10 + 4 * i)

/-- First cell of a slot. -/
def firstCell (m : Memory) (n : Nat) : Nat := field (slotWord m n 0) 0 10

/-- Last cell of a slot. -/
def lastCell (m : Memory) (n : Nat) : Nat := field (slotWord m n 0) 16 10

/-- Connector code of a slot. -/
def connectorCode (m : Memory) (n : Nat) : BitVec 16 := (slotWord m n 1).extractLsb' 0 16

/-- Allowance of a slot. -/
def allowance (m : Memory) (n : Nat) : Nat := field (slotWord m n 1) 16 11

/-- Halt-on-halting flag of a slot. -/
def haltOnHalting (m : Memory) (n : Nat) : Bool := (slotWord m n 2).getLsbD 0

/-! ## Profile table (R147) -/

/-- Offset of a profile. -/
def profileOffset (n : Nat) : Nat := 0x100 + n * 0x90

/-- Zone count of a profile. -/
def zoneCount (m : Memory) (n : Nat) : Nat := field (m.readWord (profileOffset n)) 0 8

/-- Drop limit of a profile. -/
def dropLimit (m : Memory) (n : Nat) : Counts := (m.readWord (profileOffset n + 4)).extractLsb' 0 16

/-- Absolute limit of a profile. -/
def absoluteLimit (m : Memory) (n : Nat) : Counts := (m.readWord (profileOffset n + 4)).extractLsb' 16 16

/-- Word i of zone z, z = 1..8, of a profile. -/
def zoneWord (m : Memory) (n z i : Nat) : Word := m.readWord (profileOffset n + 0x10 + (z - 1) * 0x10 + 4 * i)

/-- The four kinds of a zone (R14). -/
inductive ZoneKind where
  | entry
  | travel
  | seat
  | hold
  deriving DecidableEq, Repr

/-- Kind of a zone (R147). -/
def zoneKind (m : Memory) (n z : Nat) : ZoneKind :=
  match field (zoneWord m n z 0) 0 2 with
  | 0 => .entry
  | 1 => .travel
  | 2 => .seat
  | _ => .hold

/-- Forgiving flag of a zone. -/
def forgiving (m : Memory) (n z : Nat) : Bool := (zoneWord m n z 0).getLsbD 8

/-- Tolerance of a zone. -/
def tolerance (m : Memory) (n z : Nat) : Nat := field (zoneWord m n z 0) 16 8

/-- First step of a zone. -/
def firstStep (m : Memory) (n z : Nat) : Nat := field (zoneWord m n z 1) 0 16

/-- Last step of a zone. -/
def lastStep (m : Memory) (n z : Nat) : Nat := field (zoneWord m n z 1) 16 16

/-- Floor of a zone. -/
def floorOf (m : Memory) (n z : Nat) : Counts := (zoneWord m n z 2).extractLsb' 0 16

/-- Ceiling of a zone. -/
def ceilingOf (m : Memory) (n z : Nat) : Counts := (zoneWord m n z 2).extractLsb' 16 16

/-! ## Pin map (R148) -/

/-- Pin map entry of a cell. -/
def pinMapWord (m : Memory) (c : Nat) : Word := m.readWord (0x1400 + 4 * c)

/-- Label of a cell's pin. -/
def pinLabel (m : Memory) (c : Nat) : BitVec 16 := (pinMapWord m c).extractLsb' 0 16

/-- Profile number of a cell's pin. -/
def pinProfile (m : Memory) (c : Nat) : Nat := field (pinMapWord m c) 16 5

/-- Use is CHECK. -/
def pinChecked (m : Memory) (c : Nat) : Bool := (pinMapWord m c).getLsbD 24

/-! ## Plan record (R149) -/

/-- Word i of a plan. -/
def Plan.word (p : Plan) (i : Fin 8) : Word := p[i]

/-- Stroke number. -/
def Plan.strokeNumber (p : Plan) : BitVec 16 := (Plan.word p 0).extractLsb' 0 16

/-- The port that the sample source names: PORT_A or PORT_S. -/
def Plan.source (p : Plan) : PortId := if (Plan.word p 0).getLsbD 16 then .s else .a

/-- Scan order is CELL_MAJOR. -/
def Plan.cellMajor (p : Plan) : Bool := (Plan.word p 0).getLsbD 17

/-- Cell order is REVERSED. -/
def Plan.reversed (p : Plan) : Bool := (Plan.word p 0).getLsbD 18

/-- Pin records is ALL. -/
def Plan.allPins (p : Plan) : Bool := (Plan.word p 0).getLsbD 19

/-- Report policy is OMIT. -/
def Plan.omitPolicy (p : Plan) : Bool := (Plan.word p 0).getLsbD 20

/-- Require-freeze flag. -/
def Plan.requireFreeze (p : Plan) : Bool := (Plan.word p 0).getLsbD 21

/-- Step count. -/
def Plan.stepCount (p : Plan) : Nat := field (Plan.word p 1) 0 16

/-- Active slot mask. -/
def Plan.slotMask (p : Plan) : BitVec 4 := (Plan.word p 1).extractLsb' 16 4

/-- Slot n is active (R6). -/
def Plan.active (p : Plan) (n : Nat) : Bool := (Plan.slotMask p).getLsbD n

/-- Arm limit, in milliseconds. -/
def Plan.armLimit (p : Plan) : Nat := field (Plan.word p 2) 0 16

/-- Stall limit, in microseconds. -/
def Plan.stallLimit (p : Plan) : Nat := field (Plan.word p 2) 16 16

/-- Halt threshold. -/
def Plan.haltThreshold (p : Plan) : Nat := field (Plan.word p 3) 0 16

/-- Expected recipe sum. -/
def Plan.expectedSum (p : Plan) : Word := Plan.word p 4

/-! ## Used pins (R7, R10) -/

/-- The cell lies in the slot's range. -/
def inSlot (m : Memory) (n c : Nat) : Bool := decide (firstCell m n ≤ c) && decide (c ≤ lastCell m n)

/-- The slot of the pin: the active slot whose range holds the cell; the active slots of a validated stroke are disjoint (R7). -/
def slotOf (m : Memory) (p : Plan) (c : Nat) : Option Nat :=
  [0, 1, 2, 3].find? fun n => Plan.active p n && inSlot m n c

/-- The pin is used: its cell belongs to an active slot and its use is CHECK (R10). -/
def usedPin (m : Memory) (p : Plan) (c : Nat) : Bool := (slotOf m p c).isSome && pinChecked m c

/-- The lowest active slot numbered at least n. -/
def activeFrom (p : Plan) (n : Nat) : Option Nat := [0, 1, 2, 3].find? fun k => decide (n ≤ k) && Plan.active p k

/-! ## Hard bits (R155) -/

/-- The hard bits of the recipe word at an offset. -/
def hardMask (off : Nat) : Word :=
  if off < 0x20 then 0xFFFFFFFF#32
  else if 0x40 ≤ off ∧ off < 0x80 then (if (off - 0x40) % 0x10 = 0 then 0x03FF03FF#32 else 0#32)
  else if 0x100 ≤ off ∧ off < 0x1300 then
    let r := (off - 0x100) % 0x90
    if r = 0 then 0x000000FF#32
    else if r < 0x10 then 0#32
    else if r % 0x10 = 0 then 0x00000003#32
    else if r % 0x10 = 4 then 0xFFFFFFFF#32
    else 0#32
  else if 0x1400 ≤ off ∧ off < 0x2400 then 0x011F0000#32
  else 0#32

/-- A hard bit of the word at this offset differs between two shadows. -/
def hardDiffers (old new : Memory) (off : Nat) : Bool :=
  (old.readWord off ^^^ new.readWord off) &&& hardMask off != 0#32

/-! ## The shadow's update (R153, R154) -/

/-- Apply the beats of a write, the first at this offset. -/
def applyBeats (m : Memory) (off : Nat) : List Beat → Memory
  | [] => m
  | b :: bs => applyBeats (m.writeBeat off b) (off + 4) bs

/-- The sum after one beat: the word's old value taken off, its new value added (R154). -/
def sumBeat (sum : Word) (m : Memory) (off : Nat) (b : Beat) : Word :=
  sum - m.readWord off + (m.writeBeat off b).readWord off

/-- The sum after the beats of a write, the first at this offset (R154). -/
def sumBeats (sum : Word) (m : Memory) (off : Nat) : List Beat → Word
  | [] => sum
  | b :: bs => sumBeats (sumBeat sum m off b) (m.writeBeat off b) (off + 4) bs

/-- The wrapping sum of the 2304 words of a recipe shadow (R154). -/
def shadowSum (m : Memory) : Word := ((List.range 2304).map fun i => m.readWord (4 * i)).sum

/-! ## Validity of a profile (R20) -/

/-- The checks of zone z alone and against the zone before it. -/
def zoneValid (m : Memory) (n z : Nat) : Bool :=
  decide (firstStep m n z ≤ lastStep m n z) && decide (floorOf m n z ≤ ceilingOf m n z) &&
    (z == 1 || decide (lastStep m n (z - 1) < firstStep m n z)) &&
    (z == 1 || zoneKind m n z != .entry) &&
    (zoneKind m n z != .seat || (List.range' 1 (z - 1)).all fun y => zoneKind m n y != .seat) &&
    (zoneKind m n z != .hold || (List.range' 1 (z - 1)).any fun y => zoneKind m n y == .seat)

/-- The profile is valid for a plan of step count S (R20). -/
def profileValid (m : Memory) (n S : Nat) : Bool :=
  decide (1 ≤ zoneCount m n) && decide (zoneCount m n ≤ 8) &&
    ((List.range' 1 (zoneCount m n)).all fun z => zoneValid m n z) &&
    decide (lastStep m n (zoneCount m n) < S)

end Sys2Proof.Machine
end

