-- ==== Sys2Proof/Machine/Flags.lean ====
section
/-! DEFINITION. Flags and lines: the event flags and their enables (R135 to R138), the first refused address (R139), the lines HALT,
RDY and IRQ (R130, R134, R138), the protection flags (R159), the fault set of a pin (R46), and the status-dirty flag
(R187). -/

namespace Sys2Proof.Machine

/-- Mark the status block dirty (R187). -/
def State.markDirty (s : State) : State := { s with writer := { s.writer with dirty := true } }

/-- Mark the status block dirty when a condition holds. -/
def State.dirtyIf (s : State) (b : Bool) : State := if b then s.markDirty else s

/-! ## Event flags -/

/-- Bit of an event flag in the acknowledge word, the enable word and the status block (R143). -/
def EventFlag.bit : EventFlag → Nat
  | .verdict => 0
  | .refusal => 1
  | .halt => 2
  | .protect => 3
  | .stray => 4
  | .ringWait => 5
  | .index => 6
  | .memerr => 7
  | .loaded => 8

/-- The flag is set. -/
def State.flagSet (s : State) (f : EventFlag) : Bool := s.lines.flags.getLsbD f.bit

/-- Set a flag: a clear flag becomes set and marks the status block dirty, a set flag stays set (R135). -/
def State.setFlag (s : State) (f : EventFlag) : State :=
  if s.flagSet f then s
  else ({ s with lines := { s.lines with flags := s.lines.flags ||| BitVec.twoPow 9 f.bit } }).markDirty

/-- Some flag that was clear in `before` is now set while its enable is set: the line and event unit gives the stroke
controller a notice (R138). -/
def State.rose (s : State) (before : BitVec 9) : Bool := s.lines.flags &&& ~~~before &&& s.lines.enables != 0#9

/-- IRQ: at least one flag is both set and enabled (R138). -/
def State.irqLine (s : State) : Bool := s.lines.flags &&& s.lines.enables != 0#9

/-- The bits of the nine flags that a beat carries in enabled bytes (R136, R143). -/
def flagBits (b : Beat) : BitVec 9 := (b.data &&& enableMask b.enable).extractLsb' 0 9

/-- The positions of the nine flags that lie in enabled bytes. -/
def flagBytes (b : Beat) : BitVec 9 := (enableMask b.enable).extractLsb' 0 9

/-- Acknowledge: each flag whose bit is 1 within an enabled byte is cleared (R136). -/
def State.acknowledge (s : State) (b : Beat) : State :=
  let flags := s.lines.flags &&& ~~~flagBits b
  ({ s with lines := { s.lines with flags := flags } }).dirtyIf (flags != s.lines.flags)

/-- Enable: each enable that lies in an enabled byte takes the written bit (R137). -/
def State.enableEvents (s : State) (b : Beat) : State :=
  let enables := flagBits b ||| (s.lines.enables &&& ~~~flagBytes b)
  ({ s with lines := { s.lines with enables := enables } }).dirtyIf (enables != s.lines.enables)

/-- The first refused address: captured when PROTECT and STRAY are both clear before the raise (R139). -/
def State.captureRefused (s : State) (a : Word) : State :=
  if s.flagSet .protect || s.flagSet .stray then s
  else ({ s with lines := { s.lines with firstRefused := a } }).markDirty

/-! ## Lines -/

/-- HALT (R130). -/
def State.haltLine (s : State) : Bool :=
  match s.lines.force with
  | .forcedOn => true
  | .forcedOff => false
  | .none => s.lines.haltLatch

/-- RDY (R134). -/
def State.rdyLine (s : State) : Bool :=
  (s.stroke.state == .armed || s.stroke.state == .acquiring) && Plan.source s.stroke.latched == .a && !s.haltLine

/-- Set the halt latch to a value; a change marks the status block dirty (R128). -/
def State.setHaltLatch (s : State) (v : Bool) : State :=
  ({ s with lines := { s.lines with haltLatch := v } }).dirtyIf (s.lines.haltLatch != v)

/-- Set the force state; a change marks the status block dirty (R129). -/
def State.setForce (s : State) (v : ForceState) : State :=
  ({ s with lines := { s.lines with force := v } }).dirtyIf (s.lines.force != v)

/-! ## Protection flags, at the positions of the protection word (R143, R159) -/

/-- FREEZE_ENVELOPES. -/
def State.freezeEnvelopes (s : State) : Bool := s.protection.getLsbD 0

/-- FREEZE_MAP. -/
def State.freezeMap (s : State) : Bool := s.protection.getLsbD 1

/-- FREEZE_PROTECTION. -/
def State.freezeProtection (s : State) : Bool := s.protection.getLsbD 2

/-- ENFORCE. -/
def State.enforce (s : State) : Bool := s.protection.getLsbD 3

/-- Set the four protection flags to a value; a change marks the status block dirty (R159). -/
def State.setProtection (s : State) (v : BitVec 4) : State :=
  ({ s with protection := v }).dirtyIf (s.protection != v)

/-! ## Fault sets -/

/-- Kind code 1..9 of a fault kind (R151). -/
def FaultKind.code : FaultKind → Nat
  | .noEntry => 1
  | .lowForce => 2
  | .highForce => 3
  | .collapse => 4
  | .notSeated => 5
  | .overforce => 6
  | .overrange => 7
  | .cellFault => 8
  | .incomplete => 9

/-- The kind is a member of the fault set. -/
def PinContext.hasFault (x : PinContext) (k : FaultKind) : Bool := x.faults.getLsbD (k.code - 1)

/-- A halting fault: COLLAPSE or OVERFORCE (R16, R50). -/
def FaultKind.halting : FaultKind → Bool
  | .collapse => true
  | .overforce => true
  | .noEntry => false
  | .lowForce => false
  | .highForce => false
  | .notSeated => false
  | .overrange => false
  | .cellFault => false
  | .incomplete => false

/-- Add a fault at a step: a member changes nothing; a new kind joins the set, fixes the first fault when the set was empty,
and makes the pin FAILED (R46). -/
def PinContext.addFault (x : PinContext) (k : FaultKind) (step : Nat) : PinContext :=
  if x.hasFault k then x
  else
    { x with
      faults := x.faults ||| BitVec.twoPow 9 (k.code - 1)
      firstFault := if x.faults = 0#9 then some k else x.firstFault
      firstFaultStep := if x.faults = 0#9 then some step else x.firstFaultStep
      health := .failed }

end Sys2Proof.Machine
end

