-- ==== Sys2Proof/Machine/Checker.lean ====
section
/-! DEFINITION. The pin checker: the judgement of one sample through its eight stages, the tag byte, the final check, the failing
counts and the halting conditions (spec/02_checking_a_sample.md). -/

namespace Sys2Proof.Machine

/-- The band of a sample (R36, R47); tag code 0..3 in this order (R145). -/
inductive Band where
  | notChecked
  | inBand
  | below
  | above
  deriving DecidableEq, Repr

/-- The four fields of the tag byte (R47). -/
structure Tag where
  zone : Nat
  band : Band
  mark : Bool
  newFault : Bool
  deriving DecidableEq, Repr

/-- The all-zero tag of a beat that is not judged (R32). -/
def Tag.zero : Tag := { zone := 0, band := .notChecked, mark := false, newFault := false }

/-- Tag code of a band (R145). -/
def Band.code : Band → Nat
  | .notChecked => 0
  | .inBand => 1
  | .below => 2
  | .above => 3

/-- The grid word: the low 24 bits as sent, the tag in the top byte (R67, R145). -/
def stamp (w : Word) (t : Tag) : Word :=
  (w &&& 0x00FFFFFF#32) ||| place t.zone 24 4 ||| place t.band.code 28 2 ||| place t.mark.toNat 30 1 |||
    place t.newFault.toNat 31 1

/-! ## Judgement in progress -/

/-- A judgement in progress: the context, whether a new kind was added (NEWFAULT), whether the sample fixed a mark (MARK), and
whether a halting fault was added as a new kind (R50). -/
structure Judging where
  ctx : PinContext
  newFault : Bool
  mark : Bool
  halting : Bool
  deriving DecidableEq, Repr

/-- Add a fault during the judgement of a sample (R46, R50). -/
def Judging.add (j : Judging) (k : FaultKind) (step : Nat) : Judging :=
  if j.ctx.hasFault k then j
  else { j with ctx := j.ctx.addFault k step, newFault := true, halting := j.halting || k.halting }

/-- Add a fault when a condition holds. -/
def Judging.addIf (j : Judging) (b : Bool) (k : FaultKind) (step : Nat) : Judging := if b then j.add k step else j

/-- The fault that the exit check of a zone finds, if it finds one (R34). -/
def exitFault (m : Memory) (n : Nat) (x : PinContext) : Option FaultKind :=
  match zoneKind m n x.zoneIndex with
  | .entry => if x.entryStep.isNone then some .noEntry else none
  | .seat => if x.seated then none else some .notSeated
  | .travel => none
  | .hold => none

/-- Add the fault an exit check found, if any. -/
def Judging.addExit (j : Judging) (m : Memory) (n step : Nat) : Judging :=
  match exitFault m n j.ctx with
  | some k => j.add k step
  | none => j

/-- Stage 3, zone advance: past every zone whose last step lies below the step, with each zone's exit check (R34). A valid
profile has at most eight zones, so nine turns are enough (log 16). -/
def advanceZones (m : Memory) (n step : Nat) : Nat → Judging → Judging
  | 0, j => j
  | fuel + 1, j =>
    if j.ctx.zoneIndex ≤ zoneCount m n ∧ lastStep m n j.ctx.zoneIndex < step then
      let j1 := j.addExit m n step
      advanceZones m n step fuel
        { j1 with ctx := { j1.ctx with
          zoneIndex := j1.ctx.zoneIndex + 1, tally := 0, zoneLatch := false, previousForce := none } }
    else j

/-- Stage 4, placing (R35). -/
def placing (m : Memory) (n step k : Nat) : Progress :=
  if zoneCount m n < k then .after
  else if firstStep m n k ≤ step ∧ step ≤ lastStep m n k then .inZone
  else if k = 1 then .before
  else .between

/-- Stage 5, the band of an IN_ZONE sample, the ceiling tested first (R36). -/
def bandOf (m : Memory) (n k : Nat) (force : Counts) : Band :=
  if ceilingOf m n k < force then .above else if force < floorOf m n k then .below else .inBand

/-- Stage 6, the marks: the entry step of an ENTRY zone (R37), the seat of a SEAT zone (R39). -/
def Judging.marks (j : Judging) (m : Memory) (n step : Nat) (force : Counts) : Judging :=
  let k := j.ctx.zoneIndex
  match zoneKind m n k with
  | .entry =>
    if j.ctx.entryStep.isNone ∧ floorOf m n k ≤ force then
      { j with ctx := { j.ctx with entryStep := some step }, mark := true }
    else j
  | .seat =>
    if j.ctx.seated = false ∧ floorOf m n k ≤ force then
      { j with ctx := { j.ctx with seated := true, seatStep := some step }, mark := true }
    else j
  | .travel => j
  | .hold => j

/-- Stage 6, whether the sample is an excursion, the marks being made (R37 to R39). -/
def excursion (m : Memory) (n : Nat) (x : PinContext) : Band → Bool
  | .above => true
  | .below =>
    match zoneKind m n x.zoneIndex with
    | .entry => x.entryStep.isSome
    | .seat => false
    | .travel => true
    | .hold => true
  | .inBand => false
  | .notChecked => false

/-- The zone is TRAVEL or HOLD: the drop check applies and the previous force is kept (R40). -/
def dropZone (m : Memory) (n k : Nat) : Bool := zoneKind m n k == .travel || zoneKind m n k == .hold

/-- The drop check finds a drop: the drop limit is not 0, there is a previous force, and it exceeds the force by more than the
limit (R40). -/
def dropFound (m : Memory) (n : Nat) (x : PinContext) (force : Counts) : Bool :=
  dropZone m n x.zoneIndex && dropLimit m n != 0#16 &&
    match x.previousForce with
    | none => false
    | some p => decide (force.toNat + (dropLimit m n).toNat < p.toNat)

/-- Stage 7, the tally and the band fault (R41 to R43). -/
def Judging.tallyStage (j : Judging) (m : Memory) (n step : Nat) (band : Band) : Judging :=
  let k := j.ctx.zoneIndex
  if excursion m n j.ctx band then
    let past := decide (tolerance m n k < j.ctx.tally + 1)
    let raised := past && !j.ctx.zoneLatch
    let j1 := { j with ctx := { j.ctx with tally := min 255 (j.ctx.tally + 1), zoneLatch := j.ctx.zoneLatch || raised } }
    j1.addIf raised (if band = .above then .highForce else .lowForce) step
  else if band = .inBand ∧ forgiving m n k = true then
    { j with ctx := { j.ctx with tally := j.ctx.tally - 1 } }
  else j

/-- Stages 5 to 7 for an IN_ZONE sample, with its band (R36 to R43). -/
def Judging.inZoneStages (j : Judging) (m : Memory) (n step : Nat) (force : Counts) : Judging × Band :=
  let band := bandOf m n j.ctx.zoneIndex force
  let j1 := j.marks m n step force
  let j2 := j1.addIf (dropFound m n j1.ctx force) .collapse step
  (j2.tallyStage m n step band, band)

/-- Stage 8: the peak, the previous force and the count (R40, R44). -/
def Judging.finish (j : Judging) (m : Memory) (n step : Nat) (force : Counts) : Judging :=
  let x := j.ctx
  let higher := x.peakStep.isNone || decide (x.peakForce < force)
  { j with ctx := { x with
    peakForce := if higher then force else x.peakForce
    peakStep := if higher then some step else x.peakStep
    previousForce := if x.progress = .inZone ∧ dropZone m n x.zoneIndex = true then some force else x.previousForce
    samplesChecked := x.samplesChecked + 1 } }

/-- SATURATED of a sample word (R145). -/
def saturated (w : Word) : Bool := w.getLsbD 16

/-- CELL_OPEN of a sample word (R145). -/
def cellOpen (w : Word) : Bool := w.getLsbD 17

/-- The force a sample is judged with: 65535 when SATURATED (R45). -/
def forceOf (w : Word) : Counts := if saturated w then 0xFFFF#16 else w.extractLsb' 0 16

/-- The CELL_OPEN sample: CELL_FAULT, FROZEN, and no other stage (R31). -/
def judgeOpen (step : Nat) (x : PinContext) : Judging × Tag :=
  let j := Judging.add { ctx := x, newFault := false, mark := false, halting := false } .cellFault step
  ({ j with ctx := { j.ctx with progress := .frozen } },
    { zone := 0, band := .notChecked, mark := false, newFault := true })

/-- Stages 1 to 4: front-end flags, absolute limit, zone advance, placing (R33). -/
def judgeEarly (m : Memory) (n step : Nat) (w : Word) (x : PinContext) : Judging :=
  let j0 : Judging := { ctx := x, newFault := false, mark := false, halting := false }
  let j1 := j0.addIf (saturated w) .overrange step
  let j2 := j1.addIf (decide (absoluteLimit m n < forceOf w)) .overforce step
  let j3 := advanceZones m n step 9 j2
  { j3 with ctx := { j3.ctx with progress := placing m n step j3.ctx.zoneIndex } }

/-- The judgement of a sample of a used pin that is not FROZEN, against profile n, with the tag it earns (R33, R47). -/
def judge (m : Memory) (n step : Nat) (w : Word) (x : PinContext) : Judging × Tag :=
  if cellOpen w then judgeOpen step x
  else
    let j := judgeEarly m n step w x
    if j.ctx.progress = .inZone then
      let (j1, band) := j.inZoneStages m n step (forceOf w)
      let j2 := j1.finish m n step (forceOf w)
      (j2, { zone := j2.ctx.zoneIndex, band := band, mark := j2.mark, newFault := j2.newFault })
    else
      let j2 := j.finish m n step (forceOf w)
      (j2, { zone := 0, band := .notChecked, mark := j2.mark, newFault := j2.newFault })

/-! ## Contexts and counts in the state -/

/-- The context of a tool cell. -/
def State.pin (s : State) (c : Nat) : PinContext := s.checker.pins.getD c (PinContext.cleared .unused)

/-- Failing count of a slot. -/
def State.slotFailing (s : State) (n : Nat) : Nat := s.checker.slotFailing.getD n 0

/-- Replace the context of a cell. When its health goes from GOOD to FAILED, the failing count of its slot and the total rise by
1 (R49). -/
def State.putPin (s : State) (c : Nat) (x : PinContext) : State :=
  let pins := s.checker.pins.setIfInBounds c x
  if (s.pin c).health = .good ∧ x.health = .failed then
    match slotOf s.recipe.shadow s.stroke.latched c with
    | some n =>
      { s with checker :=
        { pins := pins
          slotFailing := s.checker.slotFailing.setIfInBounds n (s.slotFailing n + 1)
          totalFailing := s.checker.totalFailing + 1 } }
    | none => { s with checker := { s.checker with pins := pins } }
  else { s with checker := { s.checker with pins := pins } }

/-- The halting conditions are evaluated: the stroke is ACQUIRING and its sample source is PORT_A (R52). -/
def State.haltingScope (s : State) : Bool :=
  s.stroke.state == .acquiring && Plan.source s.stroke.latched == .a

/-- The halting condition of R50: a halting fault was added and the flag of the pin's slot is set. -/
def State.faultCondition (s : State) (c : Nat) (j : Judging) : Bool :=
  j.halting &&
    match slotOf s.recipe.shadow s.stroke.latched c with
    | some n => haltOnHalting s.recipe.shadow n
    | none => false

/-- The halting condition of R51: the total failing count was raised past a threshold that is not 0. -/
def State.thresholdCondition (s : State) (before : Nat) : Bool :=
  decide (before < s.checker.totalFailing) && Plan.haltThreshold s.stroke.latched != 0 &&
    decide (Plan.haltThreshold s.stroke.latched < s.checker.totalFailing)

/-- One beat presented to the pin checker: its tag, whether the halt latch is now due, and the state with the pin judged.
`halted` says that an earlier beat of the burst raised a halting condition (R30, R53). -/
def State.presentBeat (s : State) (c step : Nat) (w : Word) (halted : Bool) : Tag × Bool × State :=
  if halted = true ∨ (s.pin c).health = .unused ∨ (s.pin c).progress = .frozen then (Tag.zero, halted, s)
  else
    let (j, t) := judge s.recipe.shadow (pinProfile s.recipe.shadow c) step w (s.pin c)
    let s1 := s.putPin c j.ctx
    (t, s.haltingScope && (s.faultCondition c j || s1.thresholdCondition s.checker.totalFailing), s1)

/-- The clearing of R26: every used pin GOOD, every other cell UNUSED, every failing count 0. -/
def State.clearPins (s : State) : State :=
  { s with checker :=
    { pins := ⟨⟨(List.range 1024).map fun c => PinContext.cleared
        (if usedPin s.recipe.shadow s.stroke.latched c then .good else .unused)⟩, by simp⟩
      slotFailing := Vector.replicate 4 0
      totalFailing := 0 } }

/-- The fault that the final check of a pin adds, if any (R48, R111). -/
def finalFault (m : Memory) (n : Nat) (o : StrokeOutcome) (x : PinContext) : Option FaultKind :=
  match x.progress with
  | .frozen => none
  | .after => none
  | .inZone => if o = .complete then exitFault m n x else some .incomplete
  | .before => if o = .complete then none else some .incomplete
  | .between => if o = .complete then none else some .incomplete

/-- The final check of a used pin, its fault added at the plan's step count (R48). -/
def State.finalCheck (s : State) (c : Nat) : State :=
  match s.stroke.outcome with
  | none => s
  | some o =>
    match finalFault s.recipe.shadow (pinProfile s.recipe.shadow c) o (s.pin c) with
    | some k => s.putPin c ((s.pin c).addFault k (Plan.stepCount s.stroke.latched))
    | none => s

end Sys2Proof.Machine
end

