-- ==== Sys2Proof/Machine/Formats.lean ====
section
/-! DEFINITION. The record formats the part writes: the status block (R150) and the verdict records (R151, R152), as words. -/

namespace Sys2Proof.Machine

/-- Status code of a stroke state (R150). -/
def StrokeState.code : StrokeState → Nat
  | .loading => 0
  | .idle => 1
  | .arming => 2
  | .armed => 3
  | .acquiring => 4
  | .closing => 5
  | .reporting => 6

/-- Status code of a force state (R150). -/
def ForceState.code : ForceState → Nat
  | .none => 0
  | .forcedOn => 1
  | .forcedOff => 2

/-- Status code of a command result (R150). -/
def CommandResult.code : CommandResult → Nat
  | .none => 0
  | .done => 1
  | .busy => 2
  | .prot => 3
  | .notEmpty => 4
  | .unknown => 5

/-- Code of a stroke outcome (R152). -/
def StrokeOutcome.code : StrokeOutcome → Nat
  | .complete => 1
  | .expired => 2
  | .stalled => 3
  | .halted => 4
  | .pressStopped => 5
  | .aborted => 6
  | .recipeChanged => 7

/-- Code of a slot outcome (R152). -/
def SlotOutcome.code : SlotOutcome → Nat
  | .accept => 1
  | .reject => 2
  | .inconclusive => 3

/-- Code of a refusal reason (R152). -/
def RefusalReason.code : RefusalReason → Nat
  | .parameter => 1
  | .checksum => 2
  | .unfrozen => 3
  | .eventPending => 4
  | .halted => 5
  | .pressNotReady => 6
  | .abandoned => 7
  | .superseded => 8

/-- Code of a detail kind (R152). -/
def DetailKind.code : DetailKind → Nat
  | .none => 0
  | .geometry => 1
  | .plan => 2
  | .slot => 3
  | .profile => 4

/-- Code of a record kind (R151). -/
def Record.code : Record → Nat
  | .pin _ => 1
  | .slot _ => 2
  | .stroke _ => 3
  | .refusal _ => 4

/-- Stroke number of a record's header (R151). -/
def Record.strokeNumber : Record → BitVec 16
  | .pin r => r.strokeNumber
  | .slot r => r.strokeNumber
  | .stroke r => r.strokeNumber
  | .refusal r => r.strokeNumber

/-- A step field: FFFFh for none (R151). -/
def stepCode : Option Nat → Nat
  | none => 0xFFFF
  | some n => n

/-- A fault kind field: 0 for none (R151). -/
def faultCode : Option FaultKind → Nat
  | none => 0
  | some k => k.code

/-- Header word of a record with the lap bit (R151). -/
def recordHeader (r : Record) (lap : Bool) : Word :=
  place r.code 0 4 ||| place lap.toNat 7 1 ||| place r.strokeNumber.toNat 16 16

/-- Words 1 to 7 of a PIN_RECORD (R151). -/
def pinWords (r : PinRecord) : List Word :=
  [ place r.slot 0 2 ||| place r.cell 16 10,
    place r.label.toNat 0 16 ||| place r.zoneReached 16 4,
    place r.faults.toNat 0 9 ||| place (faultCode r.firstFault) 16 4,
    place (stepCode r.firstFaultStep) 0 16 ||| place r.samplesChecked 16 16,
    place (stepCode r.entryStep) 0 16 ||| place (stepCode r.seatStep) 16 16,
    place r.peakForce.toNat 0 16 ||| place (stepCode r.peakStep) 16 16,
    0#32 ]

/-- Words 1 to 7 of a SLOT_VERDICT (R152). -/
def slotWords (r : SlotVerdict) : List Word :=
  [ place r.slot 0 2 ||| place r.outcome.code 8 2 ||| place r.connectorCode.toNat 16 16,
    place r.pinsChecked 0 16 ||| place r.pinsFailing 16 16,
    place r.allowance 0 16,
    0#32, 0#32, 0#32, 0#32 ]

/-- Words 1 to 7 of a STROKE_VERDICT with its two pin record counts (R119, R152). -/
def strokeWords (r : StrokeVerdict) (written omitted : Nat) : List Word :=
  [ place r.outcome.code 0 4 ||| place r.rejectMask.toNat 8 4 ||| place r.gridWriteError.toNat 16 1,
    place r.stepsTaken 0 16,
    place r.samplesTaken 0 32,
    place r.totalFailing 0 16,
    place written 0 16 ||| place omitted 16 16,
    r.sumUsed,
    0#32 ]

/-- Words 1 to 7 of a REFUSAL (R152). -/
def refusalWords (r : RefusalRecord) : List Word :=
  [ place r.reason.code 0 4 ||| place r.detailKind.code 8 4 ||| place r.detailIndex 16 16,
    0#32, 0#32, 0#32, 0#32, 0#32, 0#32 ]

/-- The eight words of a record as it is written (R151, R152). -/
def Record.words (r : Record) (lap : Bool) (written omitted : Nat) : List Word :=
  recordHeader r lap ::
    match r with
    | .pin p => pinWords p
    | .slot v => slotWords v
    | .stroke v => strokeWords v written omitted
    | .refusal v => refusalWords v

/-- The sixteen words of the status block as the fields now stand (R150). -/
def State.statusWords (s : State) : List Word :=
  [ place s.stroke.state.code 0 3 ||| place s.stroke.pendingPlan.isSome.toNat 8 1 |||
      (match s.stroke.pendingPlan with
       | none => 0#32
       | some p => place (Plan.strokeNumber p).toNat 16 16),
    place (Plan.strokeNumber s.stroke.latched).toNat 0 16,
    place s.protection.toNat 0 4 ||| place s.lines.haltLatch.toNat 8 1 ||| place s.lines.force.code 16 2,
    place s.lines.flags.toNat 0 9,
    place s.lines.enables.toNat 0 9,
    place s.writer.producer 0 12 ||| place s.writer.lap.toNat 16 1,
    place s.writer.consumer 0 12,
    s.writer.cmdCode,
    place s.writer.cmdResult.code 0 3,
    s.lines.firstRefused,
    s.writer.memErrAddr,
    s.recipe.sum,
    0#32, 0#32, 0#32, 0#32 ]

/-- A WRITE of whole words at an address, all byte enables set. -/
def wordWrite (addr : Word) (ws : List Word) : Request := .write { addr := addr, beats := ws.map fullBeat }

end Sys2Proof.Machine
end

