-- ==== Sys2Proof/Machine/Report.lean ====
section
/-! DEFINITION. The report queue and the ring: entries and classes (R182), the ring in use (R184), a full ring (R185), queueing a
record, and the composition of the records (R114 to R118). -/

namespace Sys2Proof.Machine

/-! ## The ring in use -/

/-- Capacity of the ring in use: the shadow's when valid, 16 otherwise (R184). -/
def State.ringCapacity (s : State) : Nat :=
  if validCapacity (ringCapacityField s.recipe.shadow) then ringCapacityField s.recipe.shadow else 16

/-- Address of the ring slot at an index, reduced modulo 1_0000_0000h (R184). -/
def State.ringAddr (s : State) (i : Nat) : Word := toAddr (ringBaseField s.recipe.shadow + i * 32)

/-- The ring is full: one more record would make the occupancy equal to the capacity (R123, R183). -/
def State.ringFull (s : State) : Bool := (s.writer.producer + 1) % s.ringCapacity == s.writer.consumer

/-- Occupancy of the ring (R185). -/
def State.occupancy (s : State) : Nat := (s.writer.producer + s.ringCapacity - s.writer.consumer) % s.ringCapacity

/-- The 32 bytes of a record written at the producer index would meet the control region (R184). -/
def State.recordMeetsRegion (s : State) : Bool :=
  (List.range 32).any fun i => s.inRegion (toAddr ((s.ringAddr s.writer.producer).toNat + i)).toNat

/-! ## The report queue -/

/-- A record of a general entry (R182). -/
def Record.general : Record → Bool
  | .pin _ => true
  | .slot _ => true
  | .stroke _ => false
  | .refusal _ => false

/-- A REFUSAL. -/
def Record.isRefusal : Record → Bool
  | .pin _ => false
  | .slot _ => false
  | .stroke _ => false
  | .refusal _ => true

/-- A STROKE_VERDICT. -/
def Record.isStroke : Record → Bool
  | .pin _ => false
  | .slot _ => false
  | .stroke _ => true
  | .refusal _ => false

/-- A PIN_RECORD. -/
def Record.isPin : Record → Bool
  | .pin _ => true
  | .slot _ => false
  | .stroke _ => false
  | .refusal _ => false

/-- Entries of the report queue that hold a record of a class. -/
def State.entries (s : State) (p : Record → Bool) : Nat := (s.writer.queue.filter fun e => p e.record).length

/-- A general entry is free (R182). -/
def State.generalFree (s : State) : Bool := decide (s.entries Record.general < Config.generalEntries)

/-- The refusal entry is occupied (R83, R87). -/
def State.refusalOccupied (s : State) : Bool := decide (0 < s.entries Record.isRefusal)

/-- A transaction of the report writer's own kind: a record write or a status write. -/
def TransactionKind.ofWriter : TransactionKind → Bool
  | .record => true
  | .status => true
  | .passThrough _ => false
  | .remapBeat => false
  | .loadRead _ => false

/-- The report writer has a write of its own outstanding at port M (R183, R190). -/
def State.writerBusy (s : State) : Bool := s.arbiter.inflight.any fun t => t.kind.ofWriter

/-- The report writer takes up the head record: when it is free to write and the ring is full, RING_WAIT is raised, once for each
head record (R185). The flag is set here; the caller gives the stroke controller its notice (R138). -/
def State.takeUpHead (s : State) : State :=
  if !s.writer.queue.isEmpty && !s.writerBusy && s.ringFull && !s.writer.waitMarked then
    ({ s with writer := { s.writer with waitMarked := true } }).setFlag .ringWait
  else s

/-- A record enters the report queue, behind every record held (R182). One that enters an empty queue is the head and is taken up
(R185). -/
def State.enqueue (s : State) (r : Record) : State :=
  let s1 := { s with writer := { s.writer with queue := s.writer.queue ++ [{ record := r, issued := false }] } }
  if s.writer.queue.isEmpty then
    ({ s1 with writer := { s1.writer with waitMarked := false } }).takeUpHead
  else s1

/-- A REFUSAL is handed to the refusal entry, or kept among the owed refusals while that entry is occupied (R87). -/
def State.queueRefusal (s : State) (r : RefusalRecord) : State :=
  if s.refusalOccupied then { s with stroke := { s.stroke with owed := s.stroke.owed ++ [r] } }
  else s.enqueue (.refusal r)

/-- The oldest owed refusal enters the refusal entry in the event that frees it (R87). -/
def State.handOffOwed (s : State) : State :=
  match s.stroke.owed with
  | [] => s
  | r :: rs =>
    if s.refusalOccupied then s
    else ({ s with stroke := { s.stroke with owed := rs } }).enqueue (.refusal r)

/-! ## Composition -/

/-- The stroke number of the latched plan. -/
def State.strokeNumber (s : State) : BitVec 16 := Plan.strokeNumber s.stroke.latched

/-- The PIN_RECORD of a cell in a slot, composed from the context, the shadow and the latched plan (R114, R115). -/
def State.composePin (s : State) (n c : Nat) : PinRecord :=
  let x := s.pin c
  { strokeNumber := s.strokeNumber
    slot := n
    cell := c
    label := pinLabel s.recipe.shadow c
    faults := x.faults
    firstFault := x.firstFault
    firstFaultStep := x.firstFaultStep
    entryStep := x.entryStep
    seatStep := x.seatStep
    peakForce := x.peakForce
    peakStep := x.peakStep
    zoneReached := x.zoneIndex
    samplesChecked := x.samplesChecked }

/-- The cells of a slot, in ascending order (R109). -/
def slotCells (m : Memory) (n : Nat) : List Nat :=
  List.range' (firstCell m n) (lastCell m n + 1 - firstCell m n)

/-- The number of used pins of a slot (R116). -/
def State.pinsChecked (s : State) (n : Nat) : Nat :=
  ((slotCells s.recipe.shadow n).filter fun c => (s.pin c).health != .unused).length

/-- The outcome of a SLOT_VERDICT composed by the walk (R117). -/
def slotOutcome (failing allowed : Nat) (o : Option StrokeOutcome) : SlotOutcome :=
  if allowed < failing then .reject else if o = some .complete then .accept else .inconclusive

/-- The SLOT_VERDICT the walk composes (R116). -/
def State.composeSlot (s : State) (n : Nat) : SlotVerdict :=
  { strokeNumber := s.strokeNumber
    slot := n
    connectorCode := connectorCode s.recipe.shadow n
    outcome := slotOutcome (s.slotFailing n) (allowance s.recipe.shadow n) s.stroke.outcome
    pinsChecked := s.pinsChecked n
    pinsFailing := s.slotFailing n
    allowance := allowance s.recipe.shadow n }

/-- The SLOT_VERDICT of the zero-sample path: INCONCLUSIVE with no pin (R120). -/
def State.composeEmptySlot (s : State) (n : Nat) : SlotVerdict :=
  { strokeNumber := s.strokeNumber
    slot := n
    connectorCode := connectorCode s.recipe.shadow n
    outcome := .inconclusive
    pinsChecked := 0
    pinsFailing := 0
    allowance := allowance s.recipe.shadow n }

/-- The STROKE_VERDICT with an outcome, composed from the fields as they stand (R118). -/
def State.composeStroke (s : State) (o : StrokeOutcome) : StrokeVerdict :=
  { strokeNumber := s.strokeNumber
    outcome := o
    stepsTaken := s.stroke.stepsTaken
    samplesTaken := s.stroke.samplesTaken
    totalFailing := s.checker.totalFailing
    gridWriteError := s.stroke.gridWriteError
    sumUsed := s.stroke.sumUsed
    rejectMask := s.walker.rejectMask }

end Sys2Proof.Machine
end

