-- ==== Sys2Proof/Machine/Ops.lean ====
section
/-! DEFINITION. The operations of the stroke controller that several events share: entering a state, refusing, abandoning and
beginning an arming, ending a stroke, a hard change, the closing walk's start and end, and the notices of the line and
event unit (spec/04_the_stroke.md, spec/05_the_closing_walk_and_verdicts.md). -/

namespace Sys2Proof.Machine

/-- The stroke controller enters a state; a change marks the status block dirty (R78). -/
def State.enter (s : State) (st : StrokeState) : State :=
  ({ s with stroke := { s.stroke with state := st } }).dirtyIf (s.stroke.state != st)

/-- Arming begins with a plan: it is latched and the walk starts at the first check (R84, R86). -/
def State.beginArming (s : State) (p : Plan) : State :=
  ({ s with stroke := { s.stroke with state := .arming, latched := p, walk := .check 1 } }).markDirty

/-- The stroke controller enters IDLE or, with a plan pending, ARMING with that plan (R86). -/
def State.enterIdle (s : State) : State :=
  match s.stroke.pendingPlan with
  | none => s.enter .idle
  | some p => ({ s with stroke := { s.stroke with pendingPlan := none } }).beginArming p

/-- A refusal of the latched plan with no detail (R87). -/
def State.refusalOf (s : State) (why : RefusalReason) : RefusalRecord :=
  { strokeNumber := s.strokeNumber, reason := why, detailKind := .none, detailIndex := 0 }

/-- The arming ends in a REFUSAL, and the stroke controller goes on to IDLE or to a pending plan (R86 to R89). -/
def State.refuseArming (s : State) (r : RefusalRecord) : State := (s.queueRefusal r).enterIdle

/-- The arming is abandoned (R91). -/
def State.abandonArming (s : State) : State := s.refuseArming (s.refusalOf .abandoned)

/-- The notice of the line and event unit: when a flag rose while enabled and an arming is under way, the arming is abandoned
(R91, R138). -/
def State.notice (s : State) (before : BitVec 9) : State :=
  if s.rose before = true ∧ s.stroke.state = .arming then s.abandonArming else s

/-- An event flag is raised by its cause (R135, R138). -/
def State.raise (s : State) (f : EventFlag) : State := (s.setFlag f).notice s.lines.flags

/-- A write is refused: the first refused address is captured when it is due, and PROTECT or STRAY is raised (R135, R139). -/
def State.refuseWrite (s : State) (f : EventFlag) (a : Word) : State := (s.captureRefused a).raise f

/-- A landing write that waits at the port for room is dropped with STRAY (R62). -/
def State.dropWaiting (s : State) (p : PortId) : State :=
  match (s.port p).status with
  | .waiting (.write w) .room => (s.answer p .dropped).refuseWrite .stray w.addr
  | .waiting (.write _) .loading => s
  | .waiting (.write _) .refusalEntry => s
  | .waiting (.write _) .hazard => s
  | .waiting (.read _ _) _ => s
  | .free => s
  | .outstanding _ _ => s
  | .abandoned _ _ => s

/-- The closing walker becomes STOPPED and drops a held record (R108, R124). -/
def State.stopWalker (s : State) : State :=
  { s with walker := { s.walker with state := .stopped, held := none } }

/-- The STROKE_VERDICT is composed into the reserved entry and the stroke controller enters REPORTING (R102, R104). -/
def State.queueStrokeVerdict (s : State) (o : StrokeOutcome) : State :=
  (s.stopWalker.enqueue (.stroke (s.composeStroke o))).enter .reporting

/-- The slot verdicts of the zero-sample path, for these slots in turn (R120). -/
def State.queueEmptySlots (s : State) : List Nat → State
  | [] => s
  | n :: ns =>
    State.queueEmptySlots
      (if Plan.active s.stroke.latched n then s.enqueue (.slot (s.composeEmptySlot n)) else s) ns

/-- The closing walker begins at the first cell of the lowest active slot (R109). -/
def State.startWalk (s : State) (o : StrokeOutcome) : State :=
  match activeFrom s.stroke.latched 0 with
  | some n =>
    ({ s with walker := { s.walker with
        state := .walking
        cursorSlot := n
        cursorCell := firstCell s.recipe.shadow n
        held := none } }).enter .closing
  | none => s.queueStrokeVerdict o

/-- The outcome is set and both timers are stopped (R95). -/
def State.setOutcome (s : State) (o : StrokeOutcome) : State :=
  { s with stroke := { s.stroke with outcome := some o, armTimer := none, stallTimer := none } }

/-- A stroke in ARMED or ACQUIRING ends: the outcome, the timers, one of the three paths of R102, and the end of a wait for room
(R95). -/
def State.endStroke (s : State) (o : StrokeOutcome) : State :=
  let s1 := s.setOutcome o
  let s2 :=
    if o = .recipeChanged then s1.queueStrokeVerdict o
    else if s1.stroke.samplesTaken = 0 then (s1.queueEmptySlots [0, 1, 2, 3]).queueStrokeVerdict o
    else s1.startWalk o
  (s2.dropWaiting .a).dropWaiting .s

/-- ABORT or a hard change in CLOSING: the walk stops, the outcome is replaced, the STROKE_VERDICT is queued (R103). -/
def State.cutClosing (s : State) (o : StrokeOutcome) : State := (s.setOutcome o).queueStrokeVerdict o

/-- The stroke controller takes a hard-change notice (R101). -/
def State.hardChange (s : State) : State :=
  match s.stroke.state with
  | .loading => s
  | .idle => s
  | .arming => s.abandonArming
  | .armed => s.endStroke .recipeChanged
  | .acquiring => s.endStroke .recipeChanged
  | .closing => s.cutClosing .recipeChanged
  | .reporting => s

/-- A pending plan is discarded with REFUSAL ABANDONED (R99). -/
def State.discardPending (s : State) : State :=
  match s.stroke.pendingPlan with
  | none => s
  | some p =>
    (({ s with stroke := { s.stroke with pendingPlan := none } }).markDirty).queueRefusal
      { strokeNumber := Plan.strokeNumber p, reason := .abandoned, detailKind := .none, detailIndex := 0 }

/-- The entry holds a PIN_RECORD whose ring write has not been issued (R126). -/
def ReportEntry.discardable (e : ReportEntry) : Bool := e.record.isPin && !e.issued

/-- ABORT in REPORTING: the PIN_RECORDs not yet issued leave the queue and count as omitted; a new head is taken up (R126, R185). -/
def State.discardPins (s : State) : State :=
  let kept := s.writer.queue.filter fun e => !e.discardable
  let headGone := match s.writer.queue with | [] => false | e :: _ => e.discardable
  let s1 := { s with
    writer := { s.writer with queue := kept, waitMarked := if headGone then false else s.writer.waitMarked }
    walker := { s.walker with omitted := s.walker.omitted + (s.writer.queue.length - kept.length) } }
  if headGone then s1.takeUpHead else s1

/-- ABORT: its effect by stroke state, and its result (R98, R99). -/
def State.abort (s : State) : State × CommandResult :=
  match s.stroke.state with
  | .loading => (s, .busy)
  | .idle => (s, .busy)
  | .arming => (((s.queueRefusal (s.refusalOf .abandoned)).discardPending).enter .idle, .done)
  | .armed => ((s.endStroke .aborted).discardPending, .done)
  | .acquiring => ((s.endStroke .aborted).discardPending, .done)
  | .closing => ((s.cutClosing .aborted).discardPending, .done)
  | .reporting => (s.discardPins.discardPending, .done)

/-- The staging copy becomes the pending plan; a plan it replaces is refused SUPERSEDED (R85). -/
def State.pendPlan (s : State) : State :=
  let s1 := ({ s with stroke := { s.stroke with pendingPlan := some s.recipe.staging } }).markDirty
  match s.stroke.pendingPlan with
  | none => s1
  | some old =>
    (s1.queueRefusal
      { strokeNumber := Plan.strokeNumber old, reason := .superseded, detailKind := .none, detailIndex := 0 }).notice
      s.lines.flags

/-- An arming request is taken, the staging copy being up to date (R84, R85). -/
def State.armRequest (s : State) : State :=
  match s.stroke.state with
  | .loading => s
  | .idle => s.beginArming s.recipe.staging
  | .arming => s.pendPlan
  | .armed => s.pendPlan
  | .acquiring => s.pendPlan
  | .closing => s.pendPlan
  | .reporting => s.pendPlan

end Sys2Proof.Machine
end

