-- ==== Sys2Proof/Machine/Control.lean ====
section
/-! DEFINITION. Writes to the control region from port S: the drop decision (R161 to R163), the recipe shadow (R153 to R155), the
plan record (R81, R82), the command word (R144) and the other command-area words (R136, R137, R160, R186). -/

namespace Sys2Proof.Machine

/-- The beats of a write, each with its offset. -/
def beatsFrom (off : Nat) : List Beat → List (Nat × Beat)
  | [] => []
  | b :: bs => (off, b) :: beatsFrom (off + 4) bs

/-! ## The drop decision -/

/-- A freeze flag that is set covers the recipe word at this offset (R163). -/
def State.frozenAt (s : State) (off : Nat) : Bool :=
  if off < 0x100 then s.freezeMap
  else if off < 0x1400 then s.freezeEnvelopes
  else if off < 0x2400 then s.freezeMap
  else false

/-- The flags a protection beat requests: none unless the byte at the word's offset is enabled (R160). -/
def requested (b : Beat) : BitVec 4 := if b.enable.getLsbD 0 then b.data.extractLsb' 0 4 else 0#4

/-- A protection beat would clear a set flag: a 0 written at its position in an enabled byte (R160). -/
def State.wouldClear (s : State) (b : Beat) : Bool :=
  b.enable.getLsbD 0 && s.protection &&& ~~~requested b != 0#4

/-- A beat at this offset of the control region drops the whole write (R161). -/
def State.dropsBeat (s : State) (ob : Nat × Beat) : Bool :=
  (decide (Config.statusOffset ≤ ob.1) && decide (ob.1 < Config.statusOffset + 64)) || s.frozenAt ob.1 ||
    (ob.1 == Config.protectionOffset && s.wouldClear ob.2)

/-- The drop decision for a write that starts at this offset of the control region (R161, R162). -/
def State.dropDecision (s : State) (p : PortId) (off : Nat) (beats : List Beat) : Bool :=
  p == .a || (beatsFrom off beats).any s.dropsBeat

/-! ## Recipe area -/

/-- The ring moved: the producer, the consumer and the lap bit become 0, and a record write outstanding no longer advances the
producer (R184). -/
def State.resetRing (s : State) : State :=
  ({ s with
    writer := { s.writer with producer := 0, consumer := 0, lap := false }
    arbiter := { s.arbiter with inflight := s.arbiter.inflight.map fun (t : Transaction) => { t with advances := false } } }).markDirty

/-- A write changes the shadow's ring base or ring capacity (R184). -/
def ringMoved (old new : Memory) : Bool :=
  old.readWord 0xC != new.readWord 0xC || old.readWord 0x10 != new.readWord 0x10

/-- A taken write to the recipe area: shadow and sum, the ring, and one hard-change notice when a hard bit differs (R153, R154,
R155, R184). -/
def State.writeRecipe (s : State) (off : Nat) (beats : List Beat) : State :=
  let old := s.recipe.shadow
  let new := applyBeats old off beats
  let sum := sumBeats s.recipe.sum old off beats
  let s1 := ({ s with recipe := { s.recipe with shadow := new, sum := sum } }).dirtyIf (sum != s.recipe.sum)
  let s2 := if ringMoved old new then s1.resetRing else s1
  if (beatsFrom off beats).any fun ob => hardDiffers old new ob.1 then s2.hardChange else s2

/-! ## Plan record and command area -/

/-- The word of the plan record at an offset of it: the record's eight words start at a multiple of 32 (R149). -/
def planIndex (off : Nat) : Nat := off / 4 % 8

/-- The staging copy after a beat at an offset of the plan record (R81). -/
def State.stagePlan (s : State) (off : Nat) (b : Beat) : State :=
  { s with recipe := { s.recipe with
    staging := s.recipe.staging.setIfInBounds (planIndex off) (mergeBeat (s.recipe.staging.getD (planIndex off) 0) b) } }

/-- The beat is an arming request: the go word, all four byte enables, value 1 (R82). -/
def armsAt (ob : Nat × Beat) : Bool := ob.1 == Config.goOffset && ob.2.full && ob.2.data == 1#32

/-- HALT_CLEAR: the latch is cleared in IDLE, BUSY elsewhere (R131). -/
def State.haltClear (s : State) : State × CommandResult :=
  if s.stroke.state = .idle then (s.setHaltLatch false, .done) else (s, .busy)

/-- FORCE_HALT_ON (R132). -/
def State.forceHaltOn (s : State) : State × CommandResult := (s.setForce .forcedOn, .done)

/-- FORCE_HALT_OFF: PROTECTED while ENFORCE is set (R132). -/
def State.forceHaltOff (s : State) : State × CommandResult :=
  if s.enforce then (s, .prot) else (s.setForce .forcedOff, .done)

/-- FORCE_RELEASE (R132). -/
def State.forceRelease (s : State) : State × CommandResult := (s.setForce .none, .done)

/-- RELEASE: the conditions of R164 in order. -/
def State.release (s : State) : State × CommandResult :=
  if s.freezeProtection then (s, .prot)
  else if s.stroke.state ≠ .idle then (s, .busy)
  else if s.writer.consumer ≠ s.writer.producer ∨ s.writer.queue ≠ [] ∨ s.stroke.owed ≠ [] then (s, .notEmpty)
  else (s.setProtection (s.protection &&& 0xC#4), .done)

/-- The value of a command beat: a byte whose enable is clear counts as 0 (R144). -/
def commandCode (b : Beat) : Word := b.data &&& enableMask b.enable

/-- The owner of a code acts; any other code, and a beat with a byte enable clear, is UNKNOWN (R144). -/
def State.ownerActs (s : State) (b : Beat) : State × CommandResult :=
  if b.full then
    match b.data.toNat with
    | 1 => s.abort
    | 2 => s.haltClear
    | 3 => s.forceHaltOn
    | 4 => s.forceHaltOff
    | 5 => s.forceRelease
    | 6 => s.release
    | _ => (s, .unknown)
  else (s, .unknown)

/-- A beat to the command word: its owner acts, and the code and the result are recorded (R144). -/
def State.command (s : State) (b : Beat) : State :=
  let r := s.ownerActs b
  ({ r.1 with writer := { r.1.writer with cmdCode := commandCode b, cmdResult := r.2 } }).markDirty

/-- A beat to the protection word that the drop decision let pass; ENFORCE going from clear to set turns FORCED_OFF into NONE
(R133, R160). -/
def State.protect (s : State) (b : Beat) : State :=
  let s1 := s.setProtection (s.protection ||| requested b)
  if s.enforce = false ∧ s1.enforce = true ∧ s1.lines.force = .forcedOff then s1.setForce .none else s1

/-- The requested consumer index: bits 0..11, those in a byte whose enable is clear taken from the current consumer (R186). -/
def State.requestedConsumer (s : State) (b : Beat) : Nat := field (mergeBeat (place s.writer.consumer 0 12) b) 0 12

/-- The requested value lies in the span from the consumer forward to the producer (R186). -/
def State.inSpan (s : State) (v : Nat) : Bool :=
  decide (v < s.ringCapacity) &&
    decide ((v + s.ringCapacity - s.writer.consumer) % s.ringCapacity ≤ s.occupancy)

/-- A beat to the ring consumer index word (R186). -/
def State.writeConsumer (s : State) (b : Beat) : State :=
  let v := s.requestedConsumer b
  if s.inSpan v then
    ({ s with writer := { s.writer with consumer := v } }).dirtyIf (v != s.writer.consumer)
  else s.raise .index

/-- The action of one beat of a taken write on the line 2400h..243Fh or on plain words (R142). -/
def State.controlBeat (s : State) (ob : Nat × Beat) : State :=
  if ob.1 < Config.commandOffset then
    let s1 := s.stagePlan ob.1 ob.2
    if armsAt ob then s1.armRequest else s1
  else if ob.1 = Config.commandOffset then s.command ob.2
  else if ob.1 = Config.acknowledgeOffset then s.acknowledge ob.2
  else if ob.1 = Config.enableOffset then s.enableEvents ob.2
  else if ob.1 = Config.protectionOffset then s.protect ob.2
  else if ob.1 = Config.consumerOffset then s.writeConsumer ob.2
  else s

/-- The beats of a taken write act in beat order within the one event (R142, R168). -/
def State.controlBeats (s : State) : List (Nat × Beat) → State
  | [] => s
  | ob :: obs => (s.controlBeat ob).controlBeats obs

/-- The action of a taken port S write that starts at this offset (R142). -/
def State.takeControl (s : State) (off : Nat) (beats : List Beat) : State :=
  if off < Config.recipeBytes then s.writeRecipe off beats else s.controlBeats (beatsFrom off beats)

/-- A write to the control region, not in LOADING: dropped (R161), held while it carries an arming request and the refusal entry is
occupied (R83), or taken and forwarded (R142). -/
def State.controlWrite (s : State) (p : PortId) (w : Write) : State :=
  let off := w.addr.toNat - s.regionBase
  if s.dropDecision p off w.beats then (s.refuseWrite .protect w.addr).answer p .dropped
  else if (beatsFrom off w.beats).any armsAt && s.refusalOccupied then s.waitAt p (.write w) .refusalEntry
  else (s.takeControl off w.beats).forward p (.write w)

end Sys2Proof.Machine
end

