-- ==== Sys2Proof/Machine/Landing.lean ====
section
/-! DEFINITION. The landing window and the grid: the live footprint (R54), the tests of a landing write (R55), the mapping of an
offset to a tool cell and a step (R65, R66), and taking a write (R68 to R70)
(spec/03_the_landing_window_and_the_grid.md). -/

namespace Sys2Proof.Machine

/-- The window size of C cells and S steps rounded up to whole 64-byte lines (R3). -/
def footprint (C S : Nat) : Nat := (C * S * 4 + 63) / 64 * 64

/-- Cell count of the geometry shadow. -/
def State.cells (s : State) : Nat := cellCount s.recipe.shadow

/-- Step count of the latched plan. -/
def State.steps (s : State) : Nat := Plan.stepCount s.stroke.latched

/-- The stroke controller is in a state in which the landing window is recognised (R54). -/
def State.windowLive (s : State) : Bool :=
  s.stroke.state == .armed || s.stroke.state == .acquiring || s.stroke.state == .closing || s.stroke.state == .reporting

/-- The address lies in the recognised landing footprint, which is not wrapped (R54). -/
def State.inLanding (s : State) (a : Nat) : Bool :=
  s.windowLive && decide (1 ≤ s.cells) && decide (s.cells ≤ Config.cells) &&
    decide (landingBase s.recipe.shadow ≤ a) &&
    decide (a < landingBase s.recipe.shadow + footprint s.cells s.steps)

/-- Tests 1 to 4 of R55: the port, the stroke state, the expected address, and whole words. -/
def State.landingAccepted (s : State) (p : PortId) (w : Write) : Bool :=
  p == Plan.source s.stroke.latched && (s.stroke.state == .armed || s.stroke.state == .acquiring) &&
    w.addr.toNat == landingBase s.recipe.shadow + 4 * s.remap.sequence && w.beats.all Beat.full

/-- Test 5 of R55: a free place in the remap queue for every beat of the request. -/
def State.roomFor (s : State) (n : Nat) : Bool := decide (s.remap.queue.length + n ≤ Config.remapPlaces)

/-- Scan cell and step of a landing offset (R65). -/
def scanOf (p : Plan) (C o : Nat) : Nat × Nat :=
  if Plan.cellMajor p then (o / Plan.stepCount p, o % Plan.stepCount p) else (o % C, o / C)

/-- Tool cell and step of a landing offset (R65). -/
def toolOf (p : Plan) (C o : Nat) : Nat × Nat :=
  let x := scanOf p C o
  (if Plan.reversed p then C - 1 - x.1 else x.1, x.2)

/-- Grid address of a tool cell at a step (R66). -/
def gridAddr (m : Memory) (S c st : Nat) : Word := toAddr (gridBase m + (c * S + st) * 4)

/-- One beat of a taken write: mapped, presented to the pin checker, stamped, and queued (R64 to R67). The flag says that a beat
of this write has raised a halting condition. -/
def State.landBeat (s : State) (o : Nat) (b : Beat) (halted : Bool) : State × Bool :=
  let x := toolOf s.stroke.latched s.cells o
  let r := s.presentBeat x.1 x.2 b.data halted
  let e : RemapEntry :=
    { addr := gridAddr s.recipe.shadow s.steps x.1 x.2, data := stamp b.data r.1, current := true, issued := false }
  ({ r.2.2 with remap := { r.2.2.remap with queue := r.2.2.remap.queue ++ [e] } }, r.2.1)

/-- The beats of a taken write in order, the first at this offset (R64). -/
def State.landBeats (s : State) (o : Nat) (halted : Bool) : List Beat → State × Bool
  | [] => (s, halted)
  | b :: bs =>
    let r := s.landBeat o b halted
    r.1.landBeats (o + 1) r.2 bs

/-- Steps taken after k samples (R68). -/
def stepsAfter (p : Plan) (C k : Nat) : Nat :=
  if Plan.cellMajor p then min k (Plan.stepCount p) else (k + C - 1) / C

/-- The start of acquisition and the stall timer's restart (R68, R94). -/
def State.startAcquiring (s : State) : State :=
  let s1 := { s with stroke := { s.stroke with
    armTimer := none, stallTimer := some (Plan.stallLimit s.stroke.latched) } }
  s1.enter .acquiring

/-- The sequence pointer and the stroke's counts after k samples (R58, R68). -/
def State.setSequence (s : State) (k : Nat) : State :=
  { s with
    remap := { s.remap with sequence := k }
    stroke := { s.stroke with samplesTaken := k, stepsTaken := stepsAfter s.stroke.latched s.cells k } }

/-- The halting notice: the halt latch is set, HALT is raised, the stroke closes HALTED (R53, R97). -/
def State.haltStroke (s : State) : State := ((s.setHaltLatch true).raise .halt).endStroke .halted

/-- Beats of a write of n beats that receive an offset when k samples have been taken (R58, R69). -/
def State.offsetsFor (s : State) (n : Nat) : Nat := min n (s.cells * s.steps - s.remap.sequence)

/-- Taking a landing write, one event (R55, R68 to R72). -/
def State.takeLanding (s : State) (p : PortId) (w : Write) : State :=
  let k := s.remap.sequence
  let m := s.offsetsFor w.beats.length
  let r := s.startAcquiring.landBeats k false (w.beats.take m)
  let s1 := (r.1.setSequence (k + m)).answer p (if m < w.beats.length then .trimmed else .done)
  let s2 := if r.2 then s1.haltStroke else s1
  if k + m = s.cells * s.steps ∧ s2.stroke.state = .acquiring then s2.endStroke .complete else s2

/-- A landing write at the landing remapper: dropped, held for room, or taken (R55, R56, R62). -/
def State.landing (s : State) (p : PortId) (w : Write) : State :=
  if s.landingAccepted p w then
    if s.roomFor w.beats.length then s.takeLanding p w else s.waitAt p (.write w) .room
  else (s.answer p .dropped).refuseWrite .stray w.addr

end Sys2Proof.Machine
end

