-- ==== Sys2Proof/Machine/Arming.lean ====
section
/-! DEFINITION. The arming walk: the PARAMETER checks (R17 to R20, R88), the conditions of the walk's end (R89) and its success
(R90) (spec/01_envelope_profiles_pins_and_slots.md, spec/04_the_stroke.md). -/

namespace Sys2Proof.Machine

/-! ## The position of the walk -/

/-- The lowest used pin at a cell numbered at least c. -/
def usedFrom (m : Memory) (p : Plan) (c : Nat) : Option Nat :=
  (List.range' c (Config.cells - c)).find? fun x => usedPin m p x

/-- The position of the first used pin at a cell numbered at least c, or the walk's end. -/
def pinPosition (m : Memory) (p : Plan) (c : Nat) : WalkPosition :=
  match usedFrom m p c with
  | some x => .pin x
  | none => .finished

/-- The position of the first active slot numbered at least n, or of the first used pin (R17). -/
def slotPosition (m : Memory) (p : Plan) (n : Nat) : WalkPosition :=
  match activeFrom p n with
  | some k => .slot k
  | none => pinPosition m p 0

/-- The check that follows one that has passed (R17). -/
def WalkPosition.after (m : Memory) (p : Plan) : WalkPosition → WalkPosition
  | .check n => if n < 16 then .check (n + 1) else slotPosition m p 0
  | .slot n => slotPosition m p (n + 1)
  | .pin c => pinPosition m p (c + 1)
  | .finished => .finished

/-! ## The checks -/

/-- Two extents share no byte (R18). -/
def disjoint (b1 n1 b2 n2 : Nat) : Bool := decide (b1 + n1 ≤ b2) || decide (b2 + n2 ≤ b1)

/-- Size of the footprints for the geometry shadow and the latched plan (R18). -/
def State.footprintSize (s : State) : Nat := footprint s.cells s.steps

/-- Size of the ring extent (R18). -/
def State.ringExtent (s : State) : Nat := ringCapacityField s.recipe.shadow * 32

/-- The extent from this base is disjoint from the control region (R18). -/
def State.clearOfRegion (s : State) (b n : Nat) : Bool := disjoint b n s.regionBase Config.regionBytes

/-- The extent from this base is disjoint from the ring extent (R18). -/
def State.clearOfRing (s : State) (b n : Nat) : Bool := disjoint b n (ringBaseField s.recipe.shadow) s.ringExtent

/-- The condition of check n, 1..16, holds (R17, R18). -/
def State.checkHolds (s : State) (n : Nat) : Bool :=
  let m := s.recipe.shadow
  let p := s.stroke.latched
  let L := landingBase m
  let G := gridBase m
  match n with
  | 1 => decide (1 ≤ s.cells) && decide (s.cells ≤ 1024)
  | 2 => L % 0x1000 == 0
  | 3 => G % 0x1000 == 0
  | 4 => validCapacity (ringCapacityField m)
  | 5 => ringBaseField m % s.ringExtent == 0
  | 6 => decide (1 ≤ s.steps) && decide (s.steps ≤ 512)
  | 7 => Plan.slotMask p != 0#4
  | 8 => Plan.armLimit p != 0
  | 9 => Plan.stallLimit p != 0
  | 10 => decide (Plan.haltThreshold p ≤ 1024)
  | 11 => decide (L + s.footprintSize ≤ Config.addressSpace)
  | 12 => decide (G + s.footprintSize ≤ Config.addressSpace)
  | 13 => L == G || disjoint L s.footprintSize G s.footprintSize
  | 14 => s.clearOfRegion L s.footprintSize && s.clearOfRing L s.footprintSize
  | 15 => s.clearOfRegion G s.footprintSize && s.clearOfRing G s.footprintSize
  | 16 => s.clearOfRegion (ringBaseField m) s.ringExtent
  | _ => true

/-- Detail kind of check n, 1..16 (R17). -/
def checkKind (n : Nat) : DetailKind := if 6 ≤ n ∧ n ≤ 10 then .plan else .geometry

/-- The slot checks of an active slot hold (R19). -/
def State.slotHolds (s : State) (n : Nat) : Bool :=
  let m := s.recipe.shadow
  decide (firstCell m n ≤ lastCell m n) && decide (lastCell m n < s.cells) && decide (allowance m n ≤ 1024) &&
    (List.range n).all fun k =>
      !Plan.active s.stroke.latched k ||
        decide (lastCell m n < firstCell m k) || decide (lastCell m k < firstCell m n)

/-- The profile that the pin of a cell names is valid for the latched plan (R20), as the shadow and the plan stand when that pin's test is
made (R88). A profile that several used pins name is tested at each of them: R21 can also be read as one examination of each profile
(DEDUCED, log 25). -/
def State.pinHolds (s : State) (c : Nat) : Bool :=
  profileValid s.recipe.shadow (pinProfile s.recipe.shadow c) s.steps

/-- The detail of the check at this position when it fails, none when it passes (R17). -/
def State.checkFailure (s : State) : WalkPosition → Option (DetailKind × Nat)
  | .check n => if s.checkHolds n then none else some (checkKind n, n)
  | .slot n => if s.slotHolds n then none else some (.slot, n)
  | .pin c => if s.pinHolds c then none else some (.profile, pinProfile s.recipe.shadow c)
  | .finished => none

/-- The walk makes its next check: refused PARAMETER, or on to the next (R88). -/
def State.armingCheck (s : State) : State :=
  match s.checkFailure s.stroke.walk with
  | some d =>
    s.refuseArming { strokeNumber := s.strokeNumber, reason := .parameter, detailKind := d.1, detailIndex := d.2 }
  | none =>
    { s with stroke := { s.stroke with walk := s.stroke.walk.after s.recipe.shadow s.stroke.latched } }

/-- ARMING_CHECK (R88). In ARMING with a check left to make (log 1). -/
def execArmingCheck (s : State) : Host.Outcome State Fault Refusal :=
  .next (if s.stroke.state = .arming ∧ s.stroke.walk ≠ .finished then s.armingCheck else s)

/-! ## The end of the walk -/

/-- The condition of R89 that holds first, if one does. -/
def State.endRefusal (s : State) : Option RefusalReason :=
  if s.recipe.sum ≠ Plan.expectedSum s.stroke.latched then some .checksum
  else if Plan.requireFreeze s.stroke.latched && !(s.freezeEnvelopes && s.freezeMap) then some .unfrozen
  else if s.lines.haltLatch || s.lines.force == .forcedOn then some .halted
  else if s.lines.pressAbort then some .pressNotReady
  else if s.irqLine then some .eventPending
  else none

/-- The arming succeeds (R90, R26, R58, R92, R108, R194). -/
def State.armSuccess (s : State) : State :=
  let s1 := s.clearPins
  let s2 := { s1 with
    remap := { sequence := 0, queue := s1.remap.queue.map fun (e : RemapEntry) => { e with current := false } }
    walker := { s1.walker with state := .stopped, held := none, written := 0, omitted := 0, rejectMask := 0 }
    stroke := { s1.stroke with
      samplesTaken := 0
      stepsTaken := 0
      outcome := none
      gridWriteError := false
      sumUsed := s1.recipe.sum
      armTimer := some (Plan.armLimit s1.stroke.latched * 1000) } }
  s2.enter .armed

/-- The end of the walk (R89, R90). -/
def State.armingEnd (s : State) : State :=
  match s.endRefusal with
  | some why => s.refuseArming (s.refusalOf why)
  | none => s.armSuccess

/-- ARMING_WALK_END (R89). In ARMING with every check made (log 1). -/
def execArmingWalkEnd (s : State) : Host.Outcome State Fault Refusal :=
  .next (if s.stroke.state = .arming ∧ s.stroke.walk = .finished then s.armingEnd else s)

end Sys2Proof.Machine
end

