-- ==== Sys2Proof/Machine/Closing.lean ====
section
/-! DEFINITION. The ends of a stroke by its timers (R92, R93) and the closing walk: its step, a record that pauses or is omitted,
and its resumption (R109 to R117, R122, R123) (spec/05_the_closing_walk_and_verdicts.md). -/

namespace Sys2Proof.Machine

/-! ## Expiries -/

/-- The arm expiry is taken (R92). -/
def State.armExpiry (s : State) : State :=
  if s.stroke.state = .armed ∧ s.stroke.armTimer ≠ none then s.endStroke .expired else s

/-- The stall expiry is taken (R93). -/
def State.stallExpiry (s : State) : State :=
  if s.stroke.state = .acquiring ∧ s.stroke.stallTimer ≠ none then s.endStroke .stalled else s

/-- ARM_EXPIRY (R92). -/
def execArmExpiry (s : State) : Host.Outcome State Fault Refusal := .next s.armExpiry

/-- STALL_EXPIRY (R93). -/
def execStallExpiry (s : State) : Host.Outcome State Fault Refusal := .next s.stallExpiry

/-! ## The cursor -/

/-- The walk goes on at this cell of the slot the cursor is in. -/
def State.walkOn (s : State) (c : Nat) : State :=
  { s with walker := { s.walker with state := .walking, cursorCell := c, held := none } }

/-- The walk waits at this cell with a record due (R122). -/
def State.pauseWalk (s : State) (c : Nat) (h : HeldRecord) : State :=
  { s with walker := { s.walker with state := .paused, cursorCell := c, held := some h } }

/-- The used pin the cursor comes to in its slot, cells whose health is UNUSED passed over; none when the slot's pins are done
(R109). -/
def State.nextPin (s : State) : Option Nat :=
  (slotCells s.recipe.shadow s.walker.cursorSlot).find? fun c =>
    decide (s.walker.cursorCell ≤ c) && (s.pin c).health != .unused

/-! ## Pin records -/

/-- A PIN_RECORD is due for a finished pin (R114). -/
def State.pinDue (s : State) (c : Nat) : Bool := Plan.allPins s.stroke.latched || (s.pin c).faults != 0#9

/-- The PIN_RECORD of the cell is composed and queued, and the cursor moves on (R110, R114). -/
def State.queuePin (s : State) (c : Nat) : State :=
  (s.enqueue (.pin (s.composePin s.walker.cursorSlot c))).walkOn (c + 1)

/-- The PIN_RECORD of the cell is omitted, and the cursor moves on (R123). -/
def State.omitPin (s : State) (c : Nat) : State :=
  ({ s with walker := { s.walker with omitted := s.walker.omitted + 1 } }).walkOn (c + 1)

/-- The report policy gives up a due PIN_RECORD: OMIT, with the general entries occupied and the ring full (R123). -/
def State.omits (s : State) : Bool := Plan.omitPolicy s.stroke.latched && !s.generalFree && s.ringFull

/-- The step of a used pin, its final check made (R110, R122, R123). -/
def State.reportPin (s : State) (c : Nat) : State :=
  if s.pinDue c then
    if s.generalFree then s.queuePin c
    else if s.omits then s.omitPin c
    else s.pauseWalk c .pinRecord
  else s.walkOn (c + 1)

/-! ## Slot verdicts -/

/-- The slot reject mask takes the outcome of a SLOT_VERDICT (R117). -/
def State.markReject (s : State) (v : SlotVerdict) : State :=
  if v.outcome = .reject then
    { s with walker := { s.walker with rejectMask := s.walker.rejectMask ||| BitVec.twoPow 4 v.slot } }
  else s

/-- The cursor moves to the next active slot or, after the highest one, the STROKE_VERDICT is queued (R109). -/
def State.nextSlot (s : State) : State :=
  match activeFrom s.stroke.latched (s.walker.cursorSlot + 1) with
  | some n =>
    { s with walker :=
      { s.walker with state := .walking, cursorSlot := n, cursorCell := firstCell s.recipe.shadow n, held := none } }
  | none =>
    match s.stroke.outcome with
    | some o => s.queueStrokeVerdict o
    | none => s

/-- The SLOT_VERDICT of the cursor's slot is composed and queued, and the walk moves on (R116, R117). -/
def State.queueSlot (s : State) : State :=
  let v := s.composeSlot s.walker.cursorSlot
  ((s.markReject v).enqueue (.slot v)).nextSlot

/-- The step of a slot (R110, R116, R122). -/
def State.reportSlot (s : State) : State :=
  if s.generalFree then s.queueSlot
  else s.pauseWalk (lastCell s.recipe.shadow s.walker.cursorSlot + 1) .slotVerdict

/-! ## Steps and resumption -/

/-- One step of the walk (R110). -/
def State.walkStep (s : State) : State :=
  match s.nextPin with
  | some c => (s.finalCheck c).reportPin c
  | none => s.reportSlot

/-- CLOSING_WALK_STEP (R110). In CLOSING with the walker WALKING (log 1). -/
def execClosingWalkStep (s : State) : Host.Outcome State Fault Refusal :=
  .next (if s.stroke.state = .closing ∧ s.walker.state = .walking then s.walkStep else s)

/-- A ring write has completed while the walk may be PAUSED: a held record enters a free general entry, or a held PIN_RECORD is
omitted when the ring has become full (R122, R123). -/
def State.resumeWalk (s : State) : State :=
  if s.walker.state = .paused then
    match s.walker.held with
    | some .pinRecord =>
      if s.generalFree then s.queuePin s.walker.cursorCell
      else if s.omits then s.omitPin s.walker.cursorCell
      else s
    | some .slotVerdict => if s.generalFree then s.queueSlot else s
    | none => s
  else s

end Sys2Proof.Machine
end

