-- ==== Sys2Proof/Machine/Traffic.lean ====
section
/-! DEFINITION. Traffic at the near ports: the form of a request (R170), its classification (R173, R174), the hazard wait (R176,
R193), the requests a port holds off (R171, R179), and the meanings of the request and wait-end rows
(spec/09_traffic_through_the_part.md). Whatever row a request command is named by, the part classifies the request
(log 2). -/

namespace Sys2Proof.Machine

/-! ## Classification -/

/-- A word of the request is the grid address of an entry of the remap queue (R193). -/
def State.hazard (s : State) (r : Request) : Bool :=
  (Request.wordAddrs r).any fun a => s.remap.queue.any fun e => e.addr == a

/-- Row 5 of R173: plain pass-through, held while it meets a queued grid beat (R175, R176). -/
def State.passThrough (s : State) (p : PortId) (r : Request) : State :=
  if s.hazard r then s.waitAt p r .hazard else s.forward p r

/-- The region decoder: the first row of R173 that fits. -/
def State.classify (s : State) (p : PortId) (r : Request) : State :=
  if s.inRegion r.addr.toNat then
    if s.stroke.state = .loading then s.waitAt p r .loading
    else
      match r with
      | .write w => s.controlWrite p w
      | .read _ _ => s.forward p r
  else
    match r with
    | .write w => if s.inLanding w.addr.toNat then s.landing p w else s.passThrough p r
    | .read _ _ => s.passThrough p r

/-- The ERROR answer of a malformed request; a READ's words are all 0 (R170, R172). -/
def malformedAnswer : Request → Answer
  | .read _ n => .readData (List.replicate n 0) false
  | .write _ => .error

/-- A request reaches its port, which is FREE (R170, R173). -/
def State.handle (s : State) (p : PortId) (r : Request) : State :=
  if r.wellFormed then s.classify p r else s.answer p (malformedAnswer r)

/-- The port can take a request: it is FREE and RESET_N is deasserted (R171, R179). -/
def State.portReady (s : State) (p : PortId) : Bool := (s.port p).status == .free && !s.lines.resetN

/-- The oldest request held off at a port that can take one is presented (R171, R179). -/
def State.releaseHeld (s : State) (p : PortId) : State :=
  if s.portReady p then
    match (s.port p).heldOff with
    | [] => s
    | r :: rs => (s.setPort p { s.port p with heldOff := rs }).handle p r
  else s

/-- The master presents a request: it stands behind those held off before it, and the port takes the oldest when it can (R171). -/
def State.presentRequest (s : State) (p : PortId) (r : Request) : State :=
  (s.setPort p { s.port p with heldOff := (s.port p).heldOff ++ [r] }).releaseHeld p

/-! ## Ends of a wait -/

/-- The request a port holds in WAITING for this cause. -/
def State.waitingFor (s : State) (p : PortId) (c : WaitCause) : Option Request :=
  match (s.port p).status with
  | .waiting r k => if k = c then some r else none
  | .free => none
  | .outstanding _ _ => none
  | .abandoned _ _ => none

/-- The condition on which a wait for this cause ends (R177). -/
def State.waitOver (s : State) (r : Request) : WaitCause → Bool
  | .loading => s.stroke.state != .loading
  | .room => s.roomFor r.count
  | .refusalEntry => !s.refusalOccupied && s.stroke.owed.isEmpty
  | .hazard => !s.hazard r

/-- A wait for this cause ends at this port: the request is classified again (R174). A wait that is not over, or that no request
is in, is no event (log 1). An event that frees a place of the remap queue or the refusal entry ends the waits for it through this
operation, within that event (R62, R83, R193; log 3). -/
def State.endWait (s : State) (p : PortId) (c : WaitCause) : State :=
  match s.waitingFor p c with
  | none => s
  | some r => if s.waitOver r c then (s.freePort p).classify p r else s

/-- An entry has left the remap queue: a landing write that waited at the port for room is taken (R62), and a request that waited on
queued grid beats and meets none of them now is classified again (R193). -/
def State.endQueueWait (s : State) (p : PortId) : State := (s.endWait p .room).endWait p .hazard

/-- The waits on the remap queue that are over end at both ports (R62, R193). That port A comes first, where both waits end in one
event, is the model's choice (DESIGN CHOICE, log 24). -/
def State.endQueueWaits (s : State) : State := (s.endQueueWait .a).endQueueWait .s

/-- The refusal entry has been freed: an arming request that waits at port S is taken, unless an owed refusal or the REFUSAL of an
abandoned arming has filled the entry again (R83, R182). -/
def State.takeArming (s : State) : State := s.endWait .s .refusalEntry

/-! ## The rows -/

/-- MALFORMED_REQUEST (R170). -/
def execMalformedRequest (p : PortId) (r : Request) (s : State) : Host.Outcome State Fault Refusal :=
  .next (s.presentRequest p r)

/-- LANDING_WRITE (R55). -/
def execLandingWrite (p : PortId) (w : Write) (s : State) : Host.Outcome State Fault Refusal :=
  .next (s.presentRequest p (.write w))

/-- WAITING_LANDING_WRITE_TAKEN (R62). -/
def execWaitingLandingWriteTaken (p : PortId) (s : State) : Host.Outcome State Fault Refusal :=
  .next (s.endWait p .room)

/-- PASS_THROUGH_REQUEST (R175). -/
def execPassThroughRequest (p : PortId) (r : Request) (s : State) : Host.Outcome State Fault Refusal :=
  .next (s.presentRequest p r)

/-- HAZARD_WAIT_END (R193). -/
def execHazardWaitEnd (p : PortId) (s : State) : Host.Outcome State Fault Refusal :=
  .next (s.endWait p .hazard)

/-- LOADING_WAIT_END (R174). -/
def execLoadingWaitEnd (p : PortId) (s : State) : Host.Outcome State Fault Refusal :=
  .next (s.endWait p .loading)

/-- RECIPE_WRITE (R153). -/
def execRecipeWrite (w : Write) (s : State) : Host.Outcome State Fault Refusal :=
  .next (s.presentRequest .s (.write w))

/-- PLAN_WRITE (R81). -/
def execPlanWrite (w : Write) (s : State) : Host.Outcome State Fault Refusal :=
  .next (s.presentRequest .s (.write w))

/-- ARM (R82). -/
def execArm (w : Write) (s : State) : Host.Outcome State Fault Refusal :=
  .next (s.presentRequest .s (.write w))

/-- ARM_WAIT_END (R83). -/
def execArmWaitEnd (s : State) : Host.Outcome State Fault Refusal :=
  .next (s.endWait .s .refusalEntry)

/-- ABORT (R98). -/
def execAbort (w : Write) (s : State) : Host.Outcome State Fault Refusal :=
  .next (s.presentRequest .s (.write w))

/-- HALT_CLEAR (R131). -/
def execHaltClear (w : Write) (s : State) : Host.Outcome State Fault Refusal :=
  .next (s.presentRequest .s (.write w))

/-- FORCE_HALT_ON (R132). -/
def execForceHaltOn (w : Write) (s : State) : Host.Outcome State Fault Refusal :=
  .next (s.presentRequest .s (.write w))

/-- FORCE_HALT_OFF (R132). -/
def execForceHaltOff (w : Write) (s : State) : Host.Outcome State Fault Refusal :=
  .next (s.presentRequest .s (.write w))

/-- FORCE_RELEASE (R132). -/
def execForceRelease (w : Write) (s : State) : Host.Outcome State Fault Refusal :=
  .next (s.presentRequest .s (.write w))

/-- RELEASE (R164). -/
def execRelease (w : Write) (s : State) : Host.Outcome State Fault Refusal :=
  .next (s.presentRequest .s (.write w))

/-- UNKNOWN_COMMAND (R144). -/
def execUnknownCommand (w : Write) (s : State) : Host.Outcome State Fault Refusal :=
  .next (s.presentRequest .s (.write w))

/-- EVENT_ACKNOWLEDGE (R136). -/
def execEventAcknowledge (w : Write) (s : State) : Host.Outcome State Fault Refusal :=
  .next (s.presentRequest .s (.write w))

/-- EVENT_ENABLE (R137). -/
def execEventEnable (w : Write) (s : State) : Host.Outcome State Fault Refusal :=
  .next (s.presentRequest .s (.write w))

/-- PROTECTION_WORD_WRITE (R160). -/
def execProtectionWordWrite (w : Write) (s : State) : Host.Outcome State Fault Refusal :=
  .next (s.presentRequest .s (.write w))

/-- RING_CONSUMER_INDEX_WRITE (R186). -/
def execRingConsumerIndexWrite (w : Write) (s : State) : Host.Outcome State Fault Refusal :=
  .next (s.presentRequest .s (.write w))

/-- CONTROL_REGION_WRITE (R142, R162). -/
def execControlRegionWrite (p : PortId) (w : Write) (s : State) : Host.Outcome State Fault Refusal :=
  .next (s.presentRequest p (.write w))

end Sys2Proof.Machine
end

