-- ==== Sys2Proof/Machine/PortM.lean ====
section
/-! DEFINITION. Port M: the claimants, the grant and the issue (R190, R191), the report writer's choice (R183, R184, R187), the
answers of memory (R192, R194, R188), and the power-on load (R156 to R158)
(spec/10_the_verdict_ring_and_status_block.md, spec/11_memory_port_arbitration.md). -/

namespace Sys2Proof.Machine

/-! ## Readiness -/

/-- The request a port has taken and not yet issued, in OUTSTANDING or ABANDONED (R190). -/
def State.unissued (s : State) (p : PortId) : Option Request :=
  match (s.port p).status with
  | .outstanding r false => some r
  | .abandoned r false => some r
  | .outstanding _ true => none
  | .abandoned _ true => none
  | .free => none
  | .waiting _ _ => none

/-- The oldest entry of the remap queue whose write has not been issued (R190). -/
def State.nextBeat (s : State) : Option RemapEntry := s.remap.queue.find? fun e => !e.issued

/-- What the report writer would do next at port M. -/
inductive WriterChoice where
  | nothing
  | record
  | status
  | loadRead
  | toRegion
  deriving DecidableEq, Repr

/-- The report writer's choice: a load read during LOADING; else, with no write of its own outstanding, the status block or the
head record by R187. A chosen record that would meet the control region is not issued (R184). -/
def State.writerChoice (s : State) : WriterChoice :=
  if s.stroke.state = .loading then (if s.writer.loadIssued < Config.loadReads then .loadRead else .nothing)
  else if s.writerBusy then .nothing
  else
    let canRecord := !s.writer.queue.isEmpty && !s.ringFull
    if canRecord && !(s.writer.dirty && s.writer.lastIssued == .record) then
      (if s.recordMeetsRegion then .toRegion else .record)
    else if s.writer.dirty then .status
    else .nothing

/-- A claimant is ready (R190). -/
def State.ready (s : State) : Claimant → Bool
  | .portA => (s.unissued .a).isSome
  | .portS => (s.unissued .s).isSome
  | .remap => s.nextBeat.isSome
  | .report => s.writerChoice != .nothing && s.writerChoice != .toRegion

/-- The claimants in their circular order, beginning with the one after the pointer (R191). -/
def rotation : Claimant → List Claimant
  | .portA => [.portS, .remap, .report, .portA]
  | .portS => [.remap, .report, .portA, .portS]
  | .remap => [.report, .portA, .portS, .remap]
  | .report => [.portA, .portS, .remap, .report]

/-- The claimant that wins the next grant, if one is ready (R191). -/
def State.winner (s : State) : Option Claimant :=
  if Config.highWater ≤ s.remap.queue.length ∧ s.ready .remap = true then some .remap
  else (rotation s.arbiter.pointer).find? s.ready

/-! ## Issue -/

/-- A transaction is issued at port M, behind those outstanding (R191, R192). -/
def State.issue (s : State) (k : TransactionKind) (r : Request) : State :=
  { s with arbiter := { s.arbiter with
    inflight := s.arbiter.inflight ++ [{ kind := k, request := r, discard := false, advances := true }] } }

/-- A port marks its request as issued (R190). -/
def PortStatus.markIssued : PortStatus → PortStatus
  | .outstanding r _ => .outstanding r true
  | .abandoned r _ => .abandoned r true
  | .free => .free
  | .waiting r c => .waiting r c

/-- A pass-through claimant issues its request (R175, R190). -/
def State.issuePort (s : State) (p : PortId) : State :=
  match s.unissued p with
  | none => s
  | some r =>
    (s.setPort p { s.port p with status := PortStatus.markIssued (s.port p).status }).issue (.passThrough p) r

/-- The oldest unissued entry of a remap queue is marked issued. -/
def markFirst : List RemapEntry → List RemapEntry
  | [] => []
  | e :: es => if e.issued then e :: markFirst es else { e with issued := true } :: es

/-- The remap queue issues its oldest unissued beat (R190). -/
def State.issueBeat (s : State) : State :=
  match s.nextBeat with
  | none => s
  | some e =>
    ({ s with remap := { s.remap with queue := markFirst s.remap.queue } }).issue .remapBeat (wordWrite e.addr [e.data])

/-- The head record is taken as issued: its entry is marked, the last issued write is a record, and a PIN_RECORD counts as
written (R119, R183, R184). -/
def State.headIssued (s : State) : State :=
  match s.writer.queue with
  | [] => s
  | e :: es =>
    { s with
      writer := { s.writer with queue := { e with issued := true } :: es, lastIssued := .record }
      walker := { s.walker with written := if e.record.isPin then s.walker.written + 1 else s.walker.written } }

/-- The report writer issues the head record's write with the lap bit and the counts as they stand (R183). -/
def State.issueRecord (s : State) : State :=
  match s.writer.queue with
  | [] => s
  | e :: _ =>
    s.headIssued.issue .record
      (wordWrite (s.ringAddr s.writer.producer)
        (e.record.words s.writer.lap s.walker.written s.walker.omitted))

/-- Address of the status block (R187). -/
def State.statusAddr (s : State) : Word := toAddr (s.regionBase + Config.statusOffset)

/-- The report writer composes and issues the status block, and clears the dirty flag (R187). -/
def State.issueStatus (s : State) : State :=
  ({ s with writer := { s.writer with dirty := false, lastIssued := .status } }).issue .status
    (wordWrite s.statusAddr s.statusWords)

/-- Address of a line of the power-on load (R156). -/
def State.loadAddr (s : State) (line : Nat) : Word := toAddr (s.regionBase + 64 * line)

/-- The report writer issues the next read of the power-on load (R156, R190). -/
def State.issueLoad (s : State) : State :=
  ({ s with writer := { s.writer with loadIssued := s.writer.loadIssued + 1 } }).issue (.loadRead s.writer.loadIssued)
    (.read (s.loadAddr s.writer.loadIssued) 16)

/-- The report writer issues what it offers. -/
def State.issueReport (s : State) : State :=
  match s.writerChoice with
  | .nothing => s
  | .toRegion => s
  | .loadRead => s.issueLoad
  | .record => s.issueRecord
  | .status => s.issueStatus

/-- The winner issues its transaction and the pointer names it (R191). -/
def State.grantTo (s : State) (c : Claimant) : State :=
  let s1 := { s with arbiter := { s.arbiter with pointer := c } }
  match c with
  | .portA => s1.issuePort .a
  | .portS => s1.issuePort .s
  | .remap => s1.issueBeat
  | .report => s1.issueReport

/-- The arbiter grants port M when fewer than 4 transactions are outstanding and a claimant is ready (R191, R192). -/
def State.grant (s : State) : State :=
  if s.arbiter.inflight.length < Config.maxOutstanding then
    match s.winner with
    | some c => s.grantTo c
    | none => s
  else s

/-- MEMORY_GRANT (R191). -/
def execMemoryGrant (s : State) : Host.Outcome State Fault Refusal := .next s.grant

/-! ## Completion of a record write -/

/-- The event flags that a completion raises: VERDICT or REFUSAL by the record, MEMERR on an ERROR (R183, R188). -/
def State.completionFlags (s : State) (r : Record) (okay : Bool) : State :=
  let s1 := if r.isStroke then s.setFlag .verdict else if r.isRefusal then s.setFlag .refusal else s
  if okay then s1 else s1.setFlag .memerr

/-- The last memory error address becomes this one; a change of it marks the status block dirty (R187, R188, R194). -/
def State.memoryError (s : State) (a : Word) : State :=
  ({ s with writer := { s.writer with memErrAddr := a } }).dirtyIf (a != s.writer.memErrAddr)

/-- The producer goes on by one, and the lap bit flips when it becomes 0 (R183). -/
def State.advanceProducer (s : State) : State :=
  let p := (s.writer.producer + 1) % s.ringCapacity
  { s with writer := { s.writer with producer := p, lap := if p = 0 then !s.writer.lap else s.writer.lap } }

/-- REPORTING ends when the record is the STROKE_VERDICT (R106). -/
def State.endReporting (s : State) (r : Record) : State :=
  if r.isStroke = true ∧ s.stroke.state = .reporting then s.enterIdle else s

/-- The entries of the report queue move up after the head has left: the freed entry is filled again by a PAUSED walk's record or an
owed refusal, and the new head is taken up (R87, R122, R182, R185). -/
def State.refillEntries (s : State) : State := s.resumeWalk.handOffOwed.takeUpHead

/-- The head record's entry is freed and filled again (R183, R184, R188). `addr` is the address of the record's first word; `advances`
is false when the ring moved after its issue. RING_WAIT may have been set, its notice being the caller's (R185). -/
def State.freeHead (s : State) (addr : Word) (okay advances : Bool) : State :=
  let s1 := { s with writer := { s.writer with queue := s.writer.queue.tail, waitMarked := false } }
  let s2 := (if advances then s1.advanceProducer else s1).markDirty
  (if okay then s2 else s2.memoryError addr).refillEntries

/-- The stroke controller's part in the completion of a record's write: REPORTING ends with the STROKE_VERDICT (R106), and a REFUSAL
frees its entry for an arming request that waits at port S (R83, R182). -/
def State.afterRecord (s : State) (r : Record) : State :=
  if r.isRefusal then (s.endReporting r).takeArming else s.endReporting r

/-- The write of the head record completes (R183, R188). The line and event unit raises the flags of the completion and gives its
notice, and the stroke controller acts, as separate events at two blocks (R106); the spec gives no order for the arming request of
R182 either, so `flagsFirst` chooses it too (DESIGN CHOICE, log 23): with it, a REFUSAL raised while enabled in ARMING abandons the arming,
whose own REFUSAL fills the freed entry before the waiting go word can be taken; without it the go word is taken first. The notice
is of the flags that the completion raised (log 9). -/
def State.completeRecord (s : State) (addr : Word) (okay advances flagsFirst : Bool) : State :=
  match s.writer.queue with
  | [] => s
  | e :: _ =>
    let s1 := s.freeHead addr okay advances
    if flagsFirst then ((s1.completionFlags e.record okay).notice s.lines.flags).afterRecord e.record
    else
      let s2 := s1.afterRecord e.record
      (s2.completionFlags e.record okay).notice (s2.lines.flags &&& ~~~(s1.lines.flags &&& ~~~s.lines.flags))

/-- RECORD_TO_CONTROL_REGION (R184). When the record that R187 chooses would meet the control region (log 1). -/
def execRecordToControlRegion (flagsFirst : Bool) (s : State) : Host.Outcome State Fault Refusal :=
  .next (if s.writerChoice = .toRegion then
      s.headIssued.completeRecord (s.ringAddr s.writer.producer) false true flagsFirst
    else s)

/-! ## Answers of memory -/

/-- The oldest transaction outstanding, when it is one of the kinds the row answers (R192). -/
def State.oldest (s : State) (p : TransactionKind → Bool) : Option Transaction :=
  match s.arbiter.inflight with
  | [] => none
  | t :: _ => if p t.kind then some t else none

/-- The answered transaction is no longer outstanding (R192). -/
def State.popAnswered (s : State) : State :=
  { s with arbiter := { s.arbiter with inflight := s.arbiter.inflight.tail } }

/-- The answer memory's answer becomes at a near port (R172, R175). -/
def passAnswer (okay : Bool) (data : LineData) : Request → Answer
  | .read _ n => .readData (if okay then data.toList.take n else List.replicate n 0) okay
  | .write _ => if okay then .done else .error

/-- A pass-through answer: given by an OUTSTANDING port, discarded by an ABANDONED one (R171, R175, R179). -/
def State.answerPass (s : State) (p : PortId) (okay : Bool) (data : LineData) : State :=
  match (s.port p).status with
  | .outstanding r _ => s.answer p (passAnswer okay data r)
  | .abandoned _ _ => s.freePort p
  | .free => s
  | .waiting _ _ => s

/-- A pass-through transaction. -/
def TransactionKind.isPass : TransactionKind → Bool
  | .passThrough _ => true
  | .remapBeat => false
  | .record => false
  | .status => false
  | .loadRead _ => false

/-- A read of the power-on load. -/
def TransactionKind.isLoad : TransactionKind → Bool
  | .loadRead _ => true
  | .passThrough _ => false
  | .remapBeat => false
  | .record => false
  | .status => false

/-- PASS_THROUGH_ANSWER (R175, R192). When the oldest transaction outstanding is a pass-through one (log 12). -/
def execPassThroughAnswer (okay : Bool) (data : LineData) (s : State) : Host.Outcome State Fault Refusal :=
  .next (match s.oldest TransactionKind.isPass with
    | none => s
    | some t =>
      match t.kind with
      | .passThrough p => s.popAnswered.answerPass p okay data
      | .remapBeat => s
      | .record => s
      | .status => s
      | .loadRead _ => s)

/-- The head of the remap queue leaves it; an ERROR raises MEMERR, sets the address, and sets the stroke's flag when the beat
belongs to the current stroke (R61, R194). -/
def State.beatAnswered (s : State) (okay : Bool) : State :=
  match s.remap.queue with
  | [] => s
  | e :: es =>
    let s1 := { s with remap := { s.remap with queue := es } }
    if okay then s1
    else
      let s2 := (s1.memoryError e.addr).markDirty
      let s3 := if e.current then { s2 with stroke := { s2.stroke with gridWriteError := true } } else s2
      s3.raise .memerr

/-- GRID_WRITE_ANSWER (R194). When the oldest transaction outstanding is a remap beat write (log 12). The waits that end with the entry
end in the same event (R62, R193). A beat whose queue a warm reset emptied has no effect but the fall of the count (R195). -/
def execGridWriteAnswer (okay : Bool) (s : State) : Host.Outcome State Fault Refusal :=
  .next (match s.oldest (· == .remapBeat) with
    | none => s
    | some t => if t.discard then s.popAnswered else (s.popAnswered.beatAnswered okay).endQueueWaits)

/-- RECORD_WRITE_COMPLETE (R183). When the oldest transaction outstanding is a record write (log 12). -/
def execRecordWriteComplete (okay flagsFirst : Bool) (s : State) : Host.Outcome State Fault Refusal :=
  .next (match s.oldest (· == .record) with
    | none => s
    | some t =>
      if t.discard then s.popAnswered
      else s.popAnswered.completeRecord t.request.addr okay t.advances flagsFirst)

/-- A status write ends: MEMERR and its address on an ERROR, and a head record that meets the full ring is taken up (R185, R187,
R188). -/
def State.completeStatus (s : State) (okay : Bool) : State :=
  let s1 := if okay then s else (s.memoryError s.statusAddr).setFlag .memerr
  s1.takeUpHead.notice s.lines.flags

/-- STATUS_WRITE_COMPLETE (R187). When the oldest transaction outstanding is a status write (log 12). -/
def execStatusWriteComplete (okay : Bool) (s : State) : Host.Outcome State Fault Refusal :=
  .next (match s.oldest (· == .status) with
    | none => s
    | some t => if t.discard then s.popAnswered else s.popAnswered.completeStatus okay)

/-! ## The power-on load -/

/-- The words of a load answer: all 0 on an ERROR (R157). -/
def loadWords (okay : Bool) (data : LineData) : List Word :=
  if okay then data.toList else List.replicate 16 0

/-- The words of a line are stored: recipe words into the shadow and the sum, the first eight words of the plan line into the
staging copy (R154, R156). -/
def State.storeLine (s : State) (line : Nat) (ws : List Word) : State :=
  if line < Config.recipeLines then
    let beats := ws.map fullBeat
    let sum := sumBeats s.recipe.sum s.recipe.shadow (64 * line) beats
    ({ s with recipe := { s.recipe with
        shadow := applyBeats s.recipe.shadow (64 * line) beats, sum := sum } }).dirtyIf (sum != s.recipe.sum)
  else
    { s with recipe := { s.recipe with staging := Vector.ofFn fun i => ws.getD i.val 0 } }

/-- The load ends when the last of its reads has been answered (R158). -/
def State.endLoad (s : State) : State :=
  if s.writer.loadAnswered = Config.loadReads then ((s.raise .loaded).enter .idle).markDirty else s

/-- An answer to a load read (R156 to R158). -/
def State.loadAnswer (s : State) (line : Nat) (okay : Bool) (data : LineData) : State :=
  let s1 := s.storeLine line (loadWords okay data)
  let s2 := if okay then s1 else (s1.memoryError (s.loadAddr line)).raise .memerr
  ({ s2 with writer := { s2.writer with loadAnswered := s2.writer.loadAnswered + 1 } }).endLoad

/-- LOAD_READ_ANSWER (R156). When the oldest transaction outstanding is a load read (log 12). -/
def execLoadReadAnswer (okay : Bool) (data : LineData) (s : State) : Host.Outcome State Fault Refusal :=
  .next (match s.oldest TransactionKind.isLoad with
    | none => s
    | some t =>
      match t.kind with
      | .loadRead line => s.popAnswered.loadAnswer line okay data
      | .passThrough _ => s
      | .remapBeat => s
      | .record => s
      | .status => s)

end Sys2Proof.Machine
end

