-- ==== Sys2Proof/Machine/Resets.lean ====
section
/-! DEFINITION. The resets and the input lines: POWER_ON_RESET, WARM_RESET, RESET_N_DEASSERTED and PRESS_ABORT (R100, R107, R140,
R141, R156, R179 to R181, R189, R195). -/

namespace Sys2Proof.Machine

/-- POWER_ON_RESET: every block at its reset values, with the straps sampled (R141, R156, R180, R181). The levels of the two input
lines are the outside's and stay as they are, and so does the model's own queue (log 14). -/
def State.powerOn (s : State) (ctrlBase : Fin 8) (clkSel : Fin 4) : State :=
  { State.reset with
    ctrlBase := ctrlBase
    clkSel := clkSel
    lines := { State.reset.lines with pressAbort := s.lines.pressAbort, resetN := s.lines.resetN }
    pending := s.pending }

/-- POWER_ON_RESET (R156). -/
def execPowerOnReset (ctrlBase : Fin 8) (clkSel : Fin 4) (s : State) : Host.Outcome State Fault Refusal :=
  .next (s.powerOn ctrlBase clkSel)

/-- A near port at a warm reset (R179). -/
def PortStatus.afterReset : PortStatus → PortStatus
  | .free => .free
  | .waiting _ _ => .free
  | .outstanding r i => .abandoned r i
  | .abandoned r i => .abandoned r i

/-- The answer of this kind of transaction is discarded after a warm reset by the claimant whose state the reset cleared; a port
looks at its own state, and the load goes on (R195). -/
def TransactionKind.cleared : TransactionKind → Bool
  | .remapBeat => true
  | .record => true
  | .status => true
  | .passThrough _ => false
  | .loadRead _ => false

/-- A transaction outstanding at a warm reset (R195). -/
def Transaction.afterReset (t : Transaction) : Transaction := { t with discard := t.discard || t.kind.cleared }

/-- A warm reset: RESET_N changes to asserted (R107, R140, R179, R189, R195). -/
def State.warmReset (s : State) : State :=
  { s with
    portA := { s.portA with status := s.portA.status.afterReset }
    portS := { s.portS with status := s.portS.status.afterReset }
    stroke := { s.stroke with
      state := if s.stroke.state = .loading then .loading else .idle
      pendingPlan := none
      owed := []
      armTimer := none
      stallTimer := none }
    remap := { s.remap with queue := [] }
    walker := { s.walker with state := .stopped, held := none }
    writer := { s.writer with queue := [], dirty := true, waitMarked := false }
    lines := { s.lines with flags := 0, resetN := true }
    arbiter := { s.arbiter with inflight := s.arbiter.inflight.map Transaction.afterReset } }

/-- WARM_RESET (R107, R179). A line already asserted does not change (log 1). -/
def execWarmReset (s : State) : Host.Outcome State Fault Refusal :=
  .next (if s.lines.resetN then s else s.warmReset)

/-- The other near port. -/
def PortId.other : PortId → PortId
  | .a => .s
  | .s => .a

/-- RESET_N is deasserted: each port that can take one is presented the request it held off (R179). -/
def State.endReset (s : State) (first : PortId) : State :=
  (({ s with lines := { s.lines with resetN := false } }).releaseHeld first).releaseHeld (PortId.other first)

/-- RESET_N_DEASSERTED (R179). A line already deasserted does not change (log 1). -/
def execResetNDeasserted (first : PortId) (s : State) : Host.Outcome State Fault Refusal :=
  .next (if s.lines.resetN then s.endReset first else s)

/-- The stroke controller takes the assertion of PRESS_ABORT (R100). -/
def State.pressAsserted (s : State) : State :=
  match s.stroke.state with
  | .arming => s.abandonArming
  | .armed => s.endStroke .pressStopped
  | .acquiring => s.endStroke .pressStopped
  | .loading => s
  | .idle => s
  | .closing => s
  | .reporting => s

/-- The line takes a level; the change from deasserted to asserted is what acts (R100). -/
def State.pressLevel (s : State) (v : Bool) : State :=
  let s1 := { s with lines := { s.lines with pressAbort := v } }
  if v && !s.lines.pressAbort then s1.pressAsserted else s1

/-- PRESS_ABORT (R100). -/
def execPressAbort (asserted : Bool) (s : State) : Host.Outcome State Fault Refusal := .next (s.pressLevel asserted)

end Sys2Proof.Machine
end

