-- ==== Sys2Proof/Machine/Dispatch.lean ====
section
/-! DEFINITION. The meaning of each command, one arm per constructor of Instr. -/

namespace Sys2Proof.Machine

def exec (i : Instr) (s : State) : Host.Outcome State Fault Refusal :=
  match i with
  | .powerOnReset ctrlBase clkSel => Sys2Proof.Machine.execPowerOnReset ctrlBase clkSel s
  | .warmReset => Sys2Proof.Machine.execWarmReset s
  | .pressAbort asserted => Sys2Proof.Machine.execPressAbort asserted s
  | .malformedRequest p r => Sys2Proof.Machine.execMalformedRequest p r s
  | .landingWrite p w => Sys2Proof.Machine.execLandingWrite p w s
  | .waitingLandingWriteTaken p => Sys2Proof.Machine.execWaitingLandingWriteTaken p s
  | .passThroughRequest p r => Sys2Proof.Machine.execPassThroughRequest p r s
  | .hazardWaitEnd p => Sys2Proof.Machine.execHazardWaitEnd p s
  | .loadingWaitEnd p => Sys2Proof.Machine.execLoadingWaitEnd p s
  | .recipeWrite w => Sys2Proof.Machine.execRecipeWrite w s
  | .planWrite w => Sys2Proof.Machine.execPlanWrite w s
  | .arm w => Sys2Proof.Machine.execArm w s
  | .armWaitEnd => Sys2Proof.Machine.execArmWaitEnd s
  | .abort w => Sys2Proof.Machine.execAbort w s
  | .haltClear w => Sys2Proof.Machine.execHaltClear w s
  | .forceHaltOn w => Sys2Proof.Machine.execForceHaltOn w s
  | .forceHaltOff w => Sys2Proof.Machine.execForceHaltOff w s
  | .forceRelease w => Sys2Proof.Machine.execForceRelease w s
  | .release w => Sys2Proof.Machine.execRelease w s
  | .unknownCommand w => Sys2Proof.Machine.execUnknownCommand w s
  | .eventAcknowledge w => Sys2Proof.Machine.execEventAcknowledge w s
  | .eventEnable w => Sys2Proof.Machine.execEventEnable w s
  | .protectionWordWrite w => Sys2Proof.Machine.execProtectionWordWrite w s
  | .ringConsumerIndexWrite w => Sys2Proof.Machine.execRingConsumerIndexWrite w s
  | .controlRegionWrite p w => Sys2Proof.Machine.execControlRegionWrite p w s
  | .armingCheck => Sys2Proof.Machine.execArmingCheck s
  | .armingWalkEnd => Sys2Proof.Machine.execArmingWalkEnd s
  | .armExpiry => Sys2Proof.Machine.execArmExpiry s
  | .stallExpiry => Sys2Proof.Machine.execStallExpiry s
  | .closingWalkStep => Sys2Proof.Machine.execClosingWalkStep s
  | .memoryGrant => Sys2Proof.Machine.execMemoryGrant s
  | .recordToControlRegion flagsFirst => Sys2Proof.Machine.execRecordToControlRegion flagsFirst s
  | .passThroughAnswer okay data => Sys2Proof.Machine.execPassThroughAnswer okay data s
  | .gridWriteAnswer okay => Sys2Proof.Machine.execGridWriteAnswer okay s
  | .recordWriteComplete okay flagsFirst => Sys2Proof.Machine.execRecordWriteComplete okay flagsFirst s
  | .statusWriteComplete okay => Sys2Proof.Machine.execStatusWriteComplete okay s
  | .loadReadAnswer okay data => Sys2Proof.Machine.execLoadReadAnswer okay data s
  | .resetNDeasserted first => Sys2Proof.Machine.execResetNDeasserted first s

end Sys2Proof.Machine
end

