-- ==== Sys2Proof/Machine/Timers.lean ====
section
/-! DEFINITION. What the part does while no command waits: a port that has become FREE takes the request it held off, and else one
bus clock period passes (R92, R93, R171, R181; DESIGN CHOICE, log 5 and log 19). -/

namespace Sys2Proof.Machine

/-- One timebase period off a running timer (R92). -/
def countDown : Option Nat → Option Nat
  | none => none
  | some n => some (n - 1)

/-- One timebase period passes; a timer that comes to 0 has its expiry taken (R92, R93). -/
def State.timebase (s : State) : State :=
  let s1 := { s with stroke := { s.stroke with
    armTimer := countDown s.stroke.armTimer, stallTimer := countDown s.stroke.stallTimer } }
  if s1.stroke.armTimer = some 0 then s1.armExpiry
  else if s1.stroke.stallTimer = some 0 then s1.stallExpiry
  else s1

/-- One bus clock period passes: the divisor of CLK_SEL makes the timebase (R181). -/
def State.clock (s : State) : State :=
  if s.prescaler + 1 < Config.divisor s.clkSel then { s with prescaler := s.prescaler + 1 }
  else ({ s with prescaler := 0 }).timebase

/-- A port can take a request that it holds off (R171). -/
def State.takesHeld (s : State) (p : PortId) : Bool := s.portReady p && !(s.port p).heldOff.isEmpty

/-- A step with no command waiting. -/
def State.idleStep (s : State) : State :=
  if s.takesHeld .a then s.releaseHeld .a
  else if s.takesHeld .s then s.releaseHeld .s
  else s.clock

end Sys2Proof.Machine
end

