-- ==== Sys2Proof/Safety.lean ====
section
/-! DEFINITION. What the statements speak of: the request a command presents, a port that takes it at once, what a write asks of one
word, the refusals held, and the invariants that every step keeps. -/

namespace Sys2Proof.Machine

/-! ## Requests -/

/-- The port and the request of a row that presents one; no other row presents a request. -/
def requestOf : Instr → Option (PortId × Request)
  | .malformedRequest p r => some (p, r)
  | .landingWrite p w => some (p, .write w)
  | .passThroughRequest p r => some (p, r)
  | .recipeWrite w => some (.s, .write w)
  | .planWrite w => some (.s, .write w)
  | .arm w => some (.s, .write w)
  | .abort w => some (.s, .write w)
  | .haltClear w => some (.s, .write w)
  | .forceHaltOn w => some (.s, .write w)
  | .forceHaltOff w => some (.s, .write w)
  | .forceRelease w => some (.s, .write w)
  | .release w => some (.s, .write w)
  | .unknownCommand w => some (.s, .write w)
  | .eventAcknowledge w => some (.s, .write w)
  | .eventEnable w => some (.s, .write w)
  | .protectionWordWrite w => some (.s, .write w)
  | .ringConsumerIndexWrite w => some (.s, .write w)
  | .controlRegionWrite p w => some (p, .write w)
  | .powerOnReset _ _ => none
  | .warmReset => none
  | .pressAbort _ => none
  | .waitingLandingWriteTaken _ => none
  | .hazardWaitEnd _ => none
  | .loadingWaitEnd _ => none
  | .armWaitEnd => none
  | .armingCheck => none
  | .armingWalkEnd => none
  | .armExpiry => none
  | .stallExpiry => none
  | .closingWalkStep => none
  | .memoryGrant => none
  | .recordToControlRegion _ => none
  | .passThroughAnswer _ _ => none
  | .gridWriteAnswer _ => none
  | .recordWriteComplete _ _ => none
  | .statusWriteComplete _ => none
  | .loadReadAnswer _ _ => none
  | .resetNDeasserted _ => none

/-- The port takes a request in the event in which it is presented: it is FREE, holds none off, and RESET_N is deasserted (R171,
R179). -/
abbrev State.portOpen (s : State) (p : PortId) : Prop :=
  (s.port p).status = .free ∧ (s.port p).heldOff = [] ∧ s.lines.resetN = false

/-- Port S takes a control-region write in the event in which it is presented, unless it is dropped or held for the refusal entry:
the port is open and the load has ended (R156, R171). -/
abbrev State.serves (s : State) : Prop := s.portOpen .s ∧ s.stroke.state ≠ .loading

/-- The one-beat write of a word of the control region. -/
def State.oneBeat (s : State) (off : Nat) (b : Beat) : Write := { addr := toAddr (s.regionBase + off), beats := [b] }

/-- The state with the last command recorded (R144). -/
def State.recorded (s : State) (code : Word) (result : CommandResult) : State :=
  { s with writer := { s.writer with cmdCode := code, cmdResult := result, dirty := true } }

/-- The byte that the beats of a write give this offset, the first beat at `off`; none where no beat covers it with its enable
(R153). -/
def byteGiven (off : Nat) (beats : List Beat) (i : Nat) : Option Byte :=
  if off ≤ i then
    match beats[(i - off) / 4]? with
    | some b => if b.enable.getLsbD ((i - off) % 4) then some (byteOf b.data ((i - off) % 4)) else none
    | none => none
  else none

/-- No freeze flag that covers the recipe line of this offset is set: a write to it is not dropped (R163). -/
abbrev State.thawedAt (s : State) (off : Nat) : Prop :=
  if 0x100 ≤ off ∧ off < 0x1400 then s.freezeEnvelopes = false else s.freezeMap = false

/-! ## Bursts of samples -/

/-- The beats of a burst presented to the pin checker in turn, the first at landing offset `o`, each against the contexts that the beats
before it left: their tags, the halting flag, and the state with the pins judged (R30, R53, R67). -/
def State.presentBurst (s : State) (o : Nat) (halted : Bool) : List Beat → List Tag × Bool × State
  | [] => ([], halted, s)
  | b :: bs =>
    let x := toolOf s.stroke.latched s.cells o
    let r := s.presentBeat x.1 x.2 b.data halted
    let q := r.2.2.presentBurst (o + 1) r.2.1 bs
    (r.1 :: q.1, q.2)

/-! ## Refusals -/

/-- The refusal a record is, if it is one. -/
def Record.refusal? : Record → Option RefusalRecord
  | .refusal r => some r
  | .pin _ => none
  | .slot _ => none
  | .stroke _ => none

/-- The refusals that the part holds, in the order in which they reach the ring: the refusal entry's, then those owed (R87). -/
def State.refusals (s : State) : List RefusalRecord :=
  (s.writer.queue.filterMap fun e => Record.refusal? e.record) ++ s.stroke.owed

/-- A refusal is owed only while the refusal entry is occupied (R87). -/
abbrev State.owedOk (s : State) : Prop := s.stroke.owed ≠ [] → s.refusalOccupied = true

/-- The arming of `s` has been abandoned in `t`: REFUSAL ABANDONED for the latched plan, then ARMING with the plan that was pending, or
IDLE; what R88 names is untouched (R86, R91). -/
def State.abandonedTo (s t : State) : Prop :=
  t.refusals = s.refusals ++
      [{ strokeNumber := s.strokeNumber, reason := .abandoned, detailKind := .none, detailIndex := 0 }] ∧
    t.stroke.pendingPlan = none ∧
    (s.stroke.pendingPlan = none → t.stroke.state = .idle ∧ t.stroke.latched = s.stroke.latched) ∧
    (∀ q, s.stroke.pendingPlan = some q → t.stroke.state = .arming ∧ t.stroke.latched = q ∧ t.stroke.walk = .check 1) ∧
    t.checker = s.checker ∧ t.remap.sequence = s.remap.sequence ∧ t.stroke.samplesTaken = s.stroke.samplesTaken ∧
    t.stroke.stepsTaken = s.stroke.stepsTaken ∧ t.stroke.outcome = s.stroke.outcome ∧
    t.stroke.armTimer = s.stroke.armTimer ∧ t.stroke.stallTimer = s.stroke.stallTimer

/-- The records of the report queue, oldest first. -/
def State.records (s : State) : List Record := s.writer.queue.map ReportEntry.record

/-! ## The end of a stroke -/

/-- The stroke of `s` has ended in `t` on the zero-sample path: an INCONCLUSIVE SLOT_VERDICT with no pin for each active slot in ascending
order, then the STROKE_VERDICT with the outcome, and REPORTING without a walk (R102, R120). -/
def State.endedEmpty (s t : State) (o : StrokeOutcome) : Prop :=
  t.stroke.state = .reporting ∧ t.walker.state = .stopped ∧
    t.records = s.records ++
      (([0, 1, 2, 3].filter fun n => Plan.active s.stroke.latched n).map fun n => Record.slot
        { strokeNumber := s.strokeNumber
          slot := n
          connectorCode := connectorCode s.recipe.shadow n
          outcome := .inconclusive
          pinsChecked := 0
          pinsFailing := 0
          allowance := allowance s.recipe.shadow n }) ++
      [.stroke (s.composeStroke o)]

/-- The stroke of `s` has ended in `t` with the closing walk begun: CLOSING, the walker WALKING with the cursor at the first cell of the
lowest active slot, where there is one (R102, R109). -/
def State.walkBegun (s t : State) : Prop :=
  ∀ n < 4, Plan.active s.stroke.latched n = true → (∀ k < n, Plan.active s.stroke.latched k = false) →
    t.stroke.state = .closing ∧
      t.walker = { s.walker with
        state := .walking, cursorSlot := n, cursorCell := firstCell s.recipe.shadow n, held := none }

/-- A landing write that waits for room in `s` has been dropped in `t`: answered DROPPED, STRAY set, and its address captured when it is the
one write so dropped and PROTECT and STRAY were clear (R56, R62, R95, R139). -/
def State.roomWaitDropped (s t : State) : Prop :=
  ∀ (p : PortId) (w : Write), (s.port p).status = .waiting (.write w) .room →
    (t.port p).status = .free ∧ (t.port p).answer = some .dropped ∧ t.flagSet .stray = true ∧
      ((∀ q v, q ≠ p → (s.port q).status ≠ .waiting (.write v) .room) → s.flagSet .protect = false →
        s.flagSet .stray = false → t.lines.firstRefused = w.addr)

/-! ## The invariants -/

/-- A request that waits at the port is well formed (R170). -/
def NearPort.waitingOk (p : NearPort) : Bool :=
  match p.status with
  | .waiting r _ => r.wellFormed
  | .free => true
  | .outstanding _ _ => true
  | .abandoned _ _ => true

/-- The recipe shadow: canonical, within the recipe area, and summed (R153, R154); what waits is well formed. -/
def State.shadowOk (s : State) : Prop :=
  s.recipe.shadow.wf = true ∧ (s.recipe.shadow.all fun c => decide (c.1 < Config.recipeBytes)) = true ∧
    s.recipe.sum = shadowSum s.recipe.shadow ∧ s.portA.waitingOk = true ∧ s.portS.waitingOk = true

/-- The bounds of the remap queue (R61), of the outstanding transactions (R192) and of the report writer's own (R183). -/
def State.portMOk (s : State) : Prop :=
  s.remap.queue.length ≤ Config.remapPlaces ∧ s.arbiter.inflight.length ≤ Config.maxOutstanding ∧
    (s.arbiter.inflight.filter fun t => t.kind.ofWriter).length ≤ 1

/-- Load reads outstanding. -/
def State.loadsOut (s : State) : Nat := (s.arbiter.inflight.filter fun t => t.kind.isLoad).length

/-- The power-on load: LOADING lasts exactly until the last of its 145 reads is answered, and nothing else is going on in it (R156,
R158, R190). -/
def State.loadOk (s : State) : Prop :=
  s.writer.loadIssued = s.writer.loadAnswered + s.loadsOut ∧ s.writer.loadIssued ≤ Config.loadReads ∧
    (s.stroke.state = .loading → s.writer.loadAnswered < Config.loadReads ∧ s.writer.queue = []) ∧
    (s.stroke.state ≠ .loading → s.writer.loadAnswered = Config.loadReads)

/-- No record of a general entry stands behind the STROKE_VERDICT (R182). -/
def verdictLast (q : List ReportEntry) : Bool :=
  (q.dropWhile fun e => !e.record.isStroke).all fun e => !e.record.general

/-- The report queue by class and stroke state (R87, R104, R182), with the walker at work in CLOSING only. -/
def State.reportOk (s : State) : Prop :=
  s.loadOk ∧ s.owedOk ∧ (s.walker.state ≠ .stopped → s.stroke.state = .closing) ∧
    s.entries Record.general ≤ Config.generalEntries ∧ s.entries Record.isRefusal ≤ 1 ∧
    match s.stroke.state with
    | .loading => s.writer.queue = []
    | .idle => s.entries Record.general = 0 ∧ s.entries Record.isStroke = 0
    | .arming => s.entries Record.general = 0 ∧ s.entries Record.isStroke = 0
    | .armed => s.entries Record.general = 0 ∧ s.entries Record.isStroke = 0
    | .acquiring => s.entries Record.general = 0 ∧ s.entries Record.isStroke = 0
    | .closing => s.entries Record.isStroke = 0
    | .reporting => s.entries Record.isStroke = 1 ∧ verdictLast s.writer.queue = true

/-- Both ring indexes stand within the capacity of the ring in use, and at 0 during the load (R184 to R186, R189). -/
def State.ringOk (s : State) : Prop :=
  s.loadOk ∧ s.writer.producer < s.ringCapacity ∧ s.writer.consumer < s.ringCapacity ∧
    (s.stroke.state = .loading → s.writer.producer = 0 ∧ s.writer.consumer = 0)

/-- A pin context: FAILED exactly when its fault set is not empty, a first fault exactly then, the tally within 0..255 (R25, R27,
R42, R46). -/
def PinContext.ok (x : PinContext) : Bool :=
  (x.health == .failed) == (x.faults != 0#9) && x.firstFault.isSome == (x.faults != 0#9) &&
    x.firstFaultStep.isSome == (x.faults != 0#9) && decide (x.tally ≤ 255)

/-- The pin checker: every context is in order, and the total failing count is the sum of the four slot failing counts (R49). -/
def State.checkerOk (s : State) : Prop :=
  (∀ c, (s.pin c).ok = true) ∧
    s.checker.totalFailing = s.slotFailing 0 + s.slotFailing 1 + s.slotFailing 2 + s.slotFailing 3

/-- The stroke controller: the load is in order (R158), the timers run in their states alone (R92, R93), a plan is pending only
while a stroke is under way (R85), the walker is at work exactly in CLOSING and holds a record exactly when PAUSED (R108), and a
stroke that has ended has an outcome (R95). -/
def State.strokeOk (s : State) : Prop :=
  s.loadOk ∧ (s.stroke.armTimer ≠ none ↔ s.stroke.state = .armed) ∧ (s.stroke.stallTimer ≠ none ↔ s.stroke.state = .acquiring) ∧
    (s.stroke.pendingPlan ≠ none → s.stroke.state ≠ .loading ∧ s.stroke.state ≠ .idle) ∧
    (s.walker.state ≠ .stopped ↔ s.stroke.state = .closing) ∧ (s.walker.state = .paused ↔ s.walker.held ≠ none) ∧
    (s.stroke.state = .closing ∨ s.stroke.state = .reporting → s.stroke.outcome ≠ none)

end Sys2Proof.Machine
end

