-- ==== Sys2Proof/Certificates/Slice0/Obligations.lean ====
section
/-! DEFINITION. The statements for the provers. Each is a property of the model that a rule of the spec asks for; a statement that
rests on a choice of the model says so and names the log entry. A statement whose conclusion is `exec c s = .next t` says where
the command completes. -/

open Sys2Proof Sys2Proof.Machine

/-! ## The queue of commands -/

/-- A step with a command at the front of the queue runs that command on the state with the queue's rest. -/
def Obligations.StepRunsTheFrontCommand : Prop :=
  ∀ (c : Instr) (cs : List Instr) (s : State), s.pending = c :: cs → step s = exec c { s with pending := cs }

/-- Every command answers a next state in every state, and no command but the sender's own queueing touches the queue (log 1). -/
def Obligations.EveryCommandAnswersAState : Prop :=
  ∀ (c : Instr) (s : State), ∃ t, exec c s = .next t ∧ t.pending = s.pending

/-- The clock of an idle block: the divisor of R181 makes one timebase period, which counts a running timer down by one; at the last
period the expiry is taken (R92, R93). That an idle step is one bus clock period is the model's choice (log 5). -/
def Obligations.IdleStepCountsTheTimebase : Prop :=
  (Config.divisor 0 = 100 ∧ Config.divisor 1 = 125 ∧ Config.divisor 2 = 160 ∧ Config.divisor 3 = 200) ∧
  ∀ s : State, s.pending = [] → s.takesHeld .a = false → s.takesHeld .s = false →
    (s.prescaler + 1 < Config.divisor s.clkSel → step s = .next { s with prescaler := s.prescaler + 1 }) ∧
    (Config.divisor s.clkSel ≤ s.prescaler + 1 →
      (s.stroke.armTimer = none → s.stroke.stallTimer = none → step s = .next { s with prescaler := 0 }) ∧
      (∀ n, s.stroke.armTimer = some (n + 2) → s.stroke.stallTimer = none →
        step s = .next { s with prescaler := 0, stroke := { s.stroke with armTimer := some (n + 1) } }) ∧
      (∀ n, s.stroke.armTimer = none → s.stroke.stallTimer = some (n + 2) →
        step s = .next { s with prescaler := 0, stroke := { s.stroke with stallTimer := some (n + 1) } }) ∧
      (s.stroke.state = .armed → s.stroke.armTimer = some 1 →
        ∃ t, step s = .next t ∧ t.stroke.outcome = some .expired ∧ t.stroke.armTimer = none ∧ t.stroke.stallTimer = none) ∧
      (s.stroke.state = .acquiring → s.stroke.armTimer = none → s.stroke.stallTimer = some 1 →
        ∃ t, step s = .next t ∧ t.stroke.outcome = some .stalled ∧ t.stroke.armTimer = none ∧ t.stroke.stallTimer = none))

/-! ## Resets and lines -/


/-- Power-on reset: every block at the values the spec gives, the straps sampled. -/
def Obligations.PowerOnResetValues : Prop :=
  ∀ (b : Fin 8) (k : Fin 4) (s : State), ∃ t, exec (.powerOnReset b k) s = .next t ∧
    t.ctrlBase = b ∧ t.clkSel = k ∧ t.portA.status = .free ∧ t.portS.status = .free ∧
    (t.stroke.state = .loading ∧ (∀ i : Fin 8, t.stroke.latched[i] = 0#32) ∧ t.stroke.pendingPlan = none ∧
      t.stroke.owed = [] ∧ t.stroke.armTimer = none ∧ t.stroke.stallTimer = none ∧ t.stroke.outcome = none ∧
      t.stroke.samplesTaken = 0 ∧ t.stroke.stepsTaken = 0 ∧ t.stroke.gridWriteError = false) ∧
    ((∀ a, t.recipe.shadow.readByte a = 0#8) ∧ t.recipe.sum = 0#32 ∧ ∀ i : Fin 8, t.recipe.staging[i] = 0#32) ∧
    t.protection = 0#4 ∧ t.remap.sequence = 0 ∧ t.remap.queue = [] ∧
    ((∀ c, t.pin c = PinContext.cleared .unused) ∧ (∀ n, t.slotFailing n = 0) ∧ t.checker.totalFailing = 0) ∧
    (t.walker.state = .stopped ∧ t.walker.held = none ∧ t.walker.written = 0 ∧ t.walker.omitted = 0 ∧
      t.walker.rejectMask = 0#4) ∧
    (t.writer.queue = [] ∧ t.writer.producer = 0 ∧ t.writer.consumer = 0 ∧ t.writer.lap = false ∧
      t.writer.dirty = false ∧ t.writer.memErrAddr = 0#32 ∧ t.writer.cmdCode = 0#32 ∧ t.writer.cmdResult = .none ∧
      t.writer.lastIssued = .status ∧ t.writer.loadIssued = 0 ∧ t.writer.loadAnswered = 0) ∧
    (t.lines.haltLatch = false ∧ t.lines.force = .none ∧ t.lines.flags = 0#9 ∧ t.lines.enables = 0#9 ∧
      t.lines.firstRefused = 0#32 ∧ t.haltLine = false ∧ t.rdyLine = false ∧ t.irqLine = false) ∧
    t.arbiter.pointer = .report ∧ t.arbiter.inflight = []

/-- Warm reset of the stroke and of the blocks' state: what is kept and what is cleared (R107, R140, R189, R195). At the near ports a
waiting request is dropped and a taken one is abandoned (R179); every transaction issued stays outstanding, and the answers of remap,
record and status writes will be discarded (R195). -/
def Obligations.WarmResetKeepsAndClears : Prop :=
  (∀ s : State, s.lines.resetN = false → ∃ t, exec .warmReset s = .next t ∧
     t.stroke = { s.stroke with
       state := if s.stroke.state = .loading then .loading else .idle
       pendingPlan := none
       owed := []
       armTimer := none
       stallTimer := none } ∧
     t.recipe = s.recipe ∧ t.protection = s.protection ∧ t.checker = s.checker ∧
     t.remap = { s.remap with queue := [] } ∧
     t.walker = { s.walker with state := .stopped, held := none } ∧
     (t.writer.queue = [] ∧ t.writer.dirty = true ∧ t.writer.producer = s.writer.producer ∧
       t.writer.consumer = s.writer.consumer ∧ t.writer.lap = s.writer.lap ∧ t.writer.memErrAddr = s.writer.memErrAddr ∧
       t.writer.cmdCode = s.writer.cmdCode ∧ t.writer.cmdResult = s.writer.cmdResult ∧
       t.writer.lastIssued = s.writer.lastIssued ∧ t.writer.loadIssued = s.writer.loadIssued ∧
       t.writer.loadAnswered = s.writer.loadAnswered) ∧
     t.lines = { s.lines with flags := 0#9, resetN := true } ∧
     (t.haltLine = s.haltLine ∧ t.rdyLine = false ∧ t.irqLine = false) ∧
     t.ctrlBase = s.ctrlBase ∧ t.clkSel = s.clkSel) ∧
  (∀ s : State, s.lines.resetN = false → ∃ t, exec .warmReset s = .next t ∧
     (∀ p : PortId,
       ((s.port p).status = .free → (t.port p).status = .free) ∧
       (∀ r c, (s.port p).status = .waiting r c → (t.port p).status = .free) ∧
       (∀ r i, (s.port p).status = .outstanding r i → (t.port p).status = .abandoned r i) ∧
       (∀ r i, (s.port p).status = .abandoned r i → (t.port p).status = .abandoned r i) ∧
       (t.port p).answer = (s.port p).answer ∧ (t.port p).heldOff = (s.port p).heldOff) ∧
     t.arbiter.pointer = s.arbiter.pointer ∧
     t.arbiter.inflight.map Transaction.kind = s.arbiter.inflight.map Transaction.kind ∧
     t.arbiter.inflight.map Transaction.request = s.arbiter.inflight.map Transaction.request ∧
     ∀ x ∈ t.arbiter.inflight, x.kind = .remapBeat ∨ x.kind = .record ∨ x.kind = .status → x.discard = true)

/-- RESET_N that is deasserted changes the line, and each port that is FREE and holds requests off is presented the oldest of them (R179),
the port of the operand first (log 4, DESIGN CHOICE: the spec gives no order); a port that has no request held off, or whose abandoned
transaction has not finished, is presented none. That a level already held changes nothing is the model's choice (log 1, DESIGN CHOICE):
R179 speaks of the change alone. -/
def Obligations.ResetLineChanges : Prop :=
  ∀ s : State,
    let low : State := { s with lines := { s.lines with resetN := false } }
    let quiet : PortId → Prop := fun p => (s.port p).heldOff = [] ∨ ∃ r i, (s.port p).status = .abandoned r i
    (s.lines.resetN = true → exec .warmReset s = .next s) ∧
    (∀ f, s.lines.resetN = false → exec (.resetNDeasserted f) s = .next s) ∧
    (∀ f, s.lines.resetN = true → quiet .a → quiet .s → exec (.resetNDeasserted f) s = .next low) ∧
    (∀ (f p : PortId) (r : Request) (rs : List Request), s.lines.resetN = true → (s.port p).status = .free →
      (s.port p).heldOff = r :: rs → quiet (PortId.other p) →
      ∀ t, exec (.passThroughRequest p r) (low.setPort p { s.port p with heldOff := [] }) = .next t →
        exec (.resetNDeasserted f) s = .next (t.setPort p { t.port p with heldOff := rs })) ∧
    (∀ (f q : PortId) (r r' : Request) (rs rs' : List Request), s.lines.resetN = true → q = PortId.other f →
      (s.port f).status = .free → (s.port f).heldOff = r :: rs → (s.port q).status = .free →
      (s.port q).heldOff = r' :: rs' →
      ∀ t u, exec (.passThroughRequest f r)
          ((low.setPort f { s.port f with heldOff := [] }).setPort q { s.port q with heldOff := [] }) = .next t →
        exec (.passThroughRequest q r') t = .next u →
        exec (.resetNDeasserted f) s =
          .next ((u.setPort f { u.port f with heldOff := rs }).setPort q { u.port q with heldOff := rs' }))


/-- HALT is a function of the halt latch and the force state (R130). -/
def Obligations.HaltLineFollowsLatchAndForce : Prop :=
  (∀ s : State, s.haltLine = true ↔
    s.lines.force = .forcedOn ∨ (s.lines.haltLatch = true ∧ s.lines.force ≠ .forcedOff)) ∧
  (∀ c (s t : State), exec c s = .next t → t.lines.haltLatch = s.lines.haltLatch → t.lines.force = s.lines.force →
    t.haltLine = s.haltLine) ∧
  (∀ b k (s t : State), exec (.powerOnReset b k) s = .next t → t.haltLine = false) ∧
  (∀ s t : State, exec .warmReset s = .next t → t.haltLine = s.haltLine)

/-- RDY (R134) and IRQ (R138) as functions of the state. -/
def Obligations.RdyAndIrqLines : Prop :=
  ∀ s : State,
    (s.rdyLine = true ↔
      (s.stroke.state = .armed ∨ s.stroke.state = .acquiring) ∧ (Plan.word s.stroke.latched 0).getLsbD 16 = false ∧
        s.haltLine = false) ∧
    (s.irqLine = true ↔ ∃ f : EventFlag, s.lines.flags.getLsbD f.bit = true ∧ s.lines.enables.getLsbD f.bit = true)

/-- PRESS_ABORT by stroke state: only the change to asserted acts, in ARMING, ARMED and ACQUIRING (R100). In ARMING it abandons the arming,
and a pending plan is then started (R86, R91), also where the REFUSAL meets a full ring and raises an enabled RING_WAIT (log 10, DEDUCED).
The stroke it ends takes the path of R102: the records of the zero-sample path from ARMED, the walk from ACQUIRING with samples taken; a
landing write that waits for room is dropped with STRAY (R62, R95, R109, R120). -/
def Obligations.PressAbortByState : Prop :=
  ∀ s : State,
    exec (.pressAbort false) s = .next { s with lines := { s.lines with pressAbort := false } } ∧
    (s.lines.pressAbort = true → exec (.pressAbort true) s = .next s) ∧
    (s.lines.pressAbort = false →
      (s.stroke.state = .loading ∨ s.stroke.state = .idle ∨ s.stroke.state = .closing ∨ s.stroke.state = .reporting →
        exec (.pressAbort true) s = .next { s with lines := { s.lines with pressAbort := true } }) ∧
      (s.stroke.state = .arming → s.owedOk →
        ∃ t, exec (.pressAbort true) s = .next t ∧ s.abandonedTo t ∧ t.lines.pressAbort = true ∧ t.recipe = s.recipe ∧
          t.remap = s.remap ∧ t.arbiter = s.arbiter ∧ t.portA = s.portA ∧ t.portS = s.portS) ∧
      (s.stroke.state = .armed ∨ s.stroke.state = .acquiring →
        ∃ t, exec (.pressAbort true) s = .next t ∧ t.stroke.outcome = some .pressStopped ∧
          t.stroke.armTimer = none ∧ t.stroke.stallTimer = none ∧ t.rdyLine = false ∧
          (t.stroke.state = .closing ∨ t.stroke.state = .reporting) ∧
          t.stroke.pendingPlan = s.stroke.pendingPlan ∧ t.remap = s.remap ∧ t.checker = s.checker ∧
          t.recipe = s.recipe ∧ t.arbiter = s.arbiter ∧ t.lines.pressAbort = true ∧ s.roomWaitDropped t ∧
          (s.stroke.state = .armed → s.stroke.samplesTaken = 0 → s.endedEmpty t .pressStopped) ∧
          (s.stroke.state = .acquiring → 0 < s.stroke.samplesTaken → s.walkBegun t ∧
            ((∃ n < 4, Plan.active s.stroke.latched n = true) → t.writer.queue = s.writer.queue))))


/-! ## The near ports -/


/-- The part classifies a request by its address, its port and its kind, whatever row it is named by (R173; log 2); a request presented
while its port is not FREE, or while RESET_N is asserted, is held off and changes nothing else (R171, R179). -/
def Obligations.RequestRowsAndBusyPorts : Prop :=
  (∀ (c : Instr) (p : PortId) (r : Request) (s : State), requestOf c = some (p, r) →
     exec c s = exec (.passThroughRequest p r) s) ∧
  (∀ (c : Instr) (p : PortId) (r : Request) (s : State), requestOf c = some (p, r) →
     (s.port p).status ≠ .free ∨ s.lines.resetN = true →
     exec c s = .next (s.setPort p { s.port p with heldOff := (s.port p).heldOff ++ [r] }))

/-- A request is well formed by the three conditions of R170; one that is not is answered ERROR, with every word of a READ 0, and
changes nothing else. -/
def Obligations.MalformedRequestAnsweredError : Prop :=
  (∀ r : Request, r.wellFormed = true ↔
    r.addr.toNat % 4 = 0 ∧ 1 ≤ r.count ∧ r.count ≤ 16 ∧ r.addr.toNat % 64 + 4 * r.count ≤ 64) ∧
  (∀ (p : PortId) (a : Word) (n : Nat) (s : State), s.portOpen p → (Request.read a n).wellFormed = false →
    exec (.malformedRequest p (.read a n)) s =
      .next (s.setPort p { s.port p with answer := some (.readData (List.replicate n 0#32) false) })) ∧
  (∀ (p : PortId) (w : Write) (s : State), s.portOpen p → (Request.write w).wellFormed = false →
    exec (.malformedRequest p (.write w)) s = .next (s.setPort p { s.port p with answer := some .error }))

/-- A plain request that meets no queued grid beat, and a READ of the control region after LOADING, are forwarded (R173, R175). A plain
request whose words meet a queued grid beat waits (R176, R193), and so does every request to the control region during LOADING (R156).
In each case the port holds the request and nothing else changes. The control region is 16 KiB from CTRL_BASE times 2000_0000h (R141); the
landing window is recognised in ARMED, ACQUIRING, CLOSING and REPORTING, with a cell count of 1..1024, over the footprint of the shadow's
landing base and cell count and the latched step count (R3, R5, R54). -/
def Obligations.RequestsForwardedOrHeld : Prop :=
  (∀ (p : PortId) (r : Request) (s : State), s.portOpen p → r.wellFormed = true →
     ((s.inRegion r.addr.toNat = false ∧ (∀ w, r = .write w → s.inLanding w.addr.toNat = false) ∧
         ∀ j < r.count, ∀ e ∈ s.remap.queue, e.addr ≠ toAddr (r.addr.toNat + 4 * j)) ∨
       (s.inRegion r.addr.toNat = true ∧ s.stroke.state ≠ .loading ∧ ∃ a n, r = .read a n)) →
     exec (.passThroughRequest p r) s = .next (s.setPort p { s.port p with status := .outstanding r false })) ∧
  (∀ (p : PortId) (r : Request) (s : State), s.portOpen p → r.wellFormed = true →
     ((s.inRegion r.addr.toNat = false ∧ (∀ w, r = .write w → s.inLanding w.addr.toNat = false) ∧
         (∃ j < r.count, ∃ e ∈ s.remap.queue, e.addr = toAddr (r.addr.toNat + 4 * j))) →
       exec (.passThroughRequest p r) s = .next (s.setPort p { s.port p with status := .waiting r .hazard })) ∧
     ((s.inRegion r.addr.toNat = true ∧ s.stroke.state = .loading) →
       exec (.passThroughRequest p r) s = .next (s.setPort p { s.port p with status := .waiting r .loading }))) ∧
  (∀ (s : State) (a : Nat),
     let base := s.ctrlBase.val * 0x20000000
     let C := cellCount s.recipe.shadow
     let L := landingBase s.recipe.shadow
     let F := (C * Plan.stepCount s.stroke.latched * 4 + 63) / 64 * 64
     s.regionBase = base ∧ (s.inRegion a = true ↔ base ≤ a ∧ a < base + 0x4000) ∧
     (s.inLanding a = true ↔
       (s.stroke.state = .armed ∨ s.stroke.state = .acquiring ∨ s.stroke.state = .closing ∨ s.stroke.state = .reporting) ∧
         1 ≤ C ∧ C ≤ 1024 ∧ L ≤ a ∧ a < L + F))


/-- A wait that is not over goes on; one that is over has the request classified again with the state of that moment, and a plain request
without a queued beat, or a control-region READ after the load, is then forwarded (R174, R177). -/
def Obligations.WaitEnds : Prop :=
  (∀ (p : PortId) (r : Request) (s : State), (s.port p).heldOff = [] → s.lines.resetN = false → r.wellFormed = true →
     ((s.port p).status = .waiting r .hazard →
       exec (.hazardWaitEnd p) s =
         if ∃ j < r.count, ∃ e ∈ s.remap.queue, e.addr = toAddr (r.addr.toNat + 4 * j) then .next s
         else exec (.passThroughRequest p r) (s.setPort p { s.port p with status := .free })) ∧
     ((s.port p).status = .waiting r .loading →
       exec (.loadingWaitEnd p) s =
         if s.stroke.state = .loading then .next s
         else exec (.passThroughRequest p r) (s.setPort p { s.port p with status := .free })) ∧
     ((s.port p).status = .waiting r .room →
       exec (.waitingLandingWriteTaken p) s =
         if 64 < s.remap.queue.length + r.count then .next s
         else exec (.passThroughRequest p r) (s.setPort p { s.port p with status := .free })) ∧
     (p = .s → (s.port p).status = .waiting r .refusalEntry →
       exec .armWaitEnd s =
         if s.refusalOccupied = true ∨ s.stroke.owed ≠ [] then .next s
         else exec (.passThroughRequest p r) (s.setPort p { s.port p with status := .free }))) ∧
  (∀ (p : PortId) (r : Request) (s : State),
     ((s.port p).status = .waiting r .hazard → s.inRegion r.addr.toNat = false →
       (∀ w, r = .write w → s.inLanding w.addr.toNat = false) →
       (∀ j < r.count, ∀ e ∈ s.remap.queue, e.addr ≠ toAddr (r.addr.toNat + 4 * j)) →
       exec (.hazardWaitEnd p) s = .next (s.setPort p { s.port p with status := .outstanding r false })) ∧
     (∀ a n, (s.port p).status = .waiting r .loading → r = .read a n → s.inRegion a.toNat = true →
       s.stroke.state ≠ .loading →
       exec (.loadingWaitEnd p) s = .next (s.setPort p { s.port p with status := .outstanding r false })))

/-! ## Commands of the command word -/


/-- HALT_CLEAR clears the latch in IDLE alone (R131); the three force commands, with ENFORCE clear and set (R132). -/
def Obligations.HaltClearAndForceCommands : Prop :=
  (∀ s : State, s.serves →
     let w := s.oneBeat 0x2420 (fullBeat 2)
     (s.stroke.state = .idle →
       exec (.haltClear w) s =
         .next (({ s with lines := { s.lines with haltLatch := false } }).recorded 2 .done |>.forward .s (.write w))) ∧
     (s.stroke.state ≠ .idle → exec (.haltClear w) s = .next ((s.recorded 2 .busy).forward .s (.write w))) ∧
     ∀ t, exec (.haltClear w) s = .next t →
       (s.stroke.state = .idle → s.lines.force = .none → t.haltLine = false) ∧ (t.rdyLine = true → s.rdyLine = true)) ∧
  (∀ s : State, s.serves →
     let on := s.oneBeat 0x2420 (fullBeat 3)
     let off := s.oneBeat 0x2420 (fullBeat 4)
     let rel := s.oneBeat 0x2420 (fullBeat 5)
     exec (.forceHaltOn on) s =
       .next (({ s with lines := { s.lines with force := .forcedOn } }).recorded 3 .done |>.forward .s (.write on)) ∧
     (s.enforce = false → exec (.forceHaltOff off) s =
       .next (({ s with lines := { s.lines with force := .forcedOff } }).recorded 4 .done |>.forward .s (.write off))) ∧
     (s.enforce = true → exec (.forceHaltOff off) s = .next ((s.recorded 4 .prot).forward .s (.write off))) ∧
     exec (.forceRelease rel) s =
       .next (({ s with lines := { s.lines with force := .none } }).recorded 5 .done |>.forward .s (.write rel)))

/-- RELEASE: the four conditions in order (R164). -/
def Obligations.ReleaseInOrder : Prop :=
  ∀ s : State, s.serves →
    let w := s.oneBeat 0x2420 (fullBeat 6)
    (s.freezeProtection = true → exec (.release w) s = .next ((s.recorded 6 .prot).forward .s (.write w))) ∧
    (s.freezeProtection = false → s.stroke.state ≠ .idle →
      exec (.release w) s = .next ((s.recorded 6 .busy).forward .s (.write w))) ∧
    (s.freezeProtection = false → s.stroke.state = .idle →
      (s.writer.consumer ≠ s.writer.producer ∨ s.writer.queue ≠ [] ∨ s.stroke.owed ≠ []) →
      exec (.release w) s = .next ((s.recorded 6 .notEmpty).forward .s (.write w))) ∧
    (s.freezeProtection = false → s.stroke.state = .idle → s.writer.consumer = s.writer.producer →
      s.writer.queue = [] → s.stroke.owed = [] →
      exec (.release w) s =
        .next (({ s with protection := s.protection &&& 0xC#4 }).recorded 6 .done |>.forward .s (.write w)))

/-- A beat to the command word with a byte enable clear, or with any value but 1..6, is UNKNOWN; a byte whose enable is clear
counts as 0 in the recorded code (R144). -/
def Obligations.UnknownCommandRecorded : Prop :=
  ∀ (s : State) (b : Beat), s.serves → b.enable ≠ 0xF#4 ∨ b.data.toNat = 0 ∨ 6 < b.data.toNat →
    let w := s.oneBeat 0x2420 b
    ∃ code, exec (.unknownCommand w) s = .next ((s.recorded code .unknown).forward .s (.write w)) ∧
      ∀ i : Fin 4, byteOf code i = if b.enable.getLsbD i then byteOf b.data i else 0#8

/-- ABORT by stroke state (R98, R99, R103). An ended stroke takes the path of R102: from ARMED the verdicts of the zero-sample path, from
ACQUIRING the walk; a landing write that waits for room is dropped with STRAY (R62, R95, R109, R120). In CLOSING the STROKE_VERDICT alone
is queued (R103, R124). What is queued is stated with no plan pending, so that log 8 plays no part. In REPORTING it discards the
PIN_RECORDs not yet issued, counts them as omitted, and leaves every other record in its place (R126); a record that becomes the head
thereby, with the ring full and the report writer free to write, raises RING_WAIT (R185). -/
def Obligations.AbortByState : Prop :=
  (∀ s : State, s.serves → s.owedOk →
     let w := s.oneBeat 0x2420 (fullBeat 1)
     let pend : List RefusalRecord := (s.stroke.pendingPlan.map fun p =>
       { strokeNumber := Plan.strokeNumber p, reason := .abandoned, detailKind := .none, detailIndex := 0 }).toList
     (s.stroke.state = .idle → exec (.abort w) s = .next ((s.recorded 1 .busy).forward .s (.write w))) ∧
     (s.stroke.state ≠ .idle → ∃ t, exec (.abort w) s = .next t ∧ t.portS.status = .outstanding (.write w) false ∧
       t.writer.cmdCode = 1#32 ∧ t.writer.cmdResult = .done ∧ t.stroke.pendingPlan = none ∧
       t.stroke.latched = s.stroke.latched ∧ t.recipe = s.recipe ∧ t.protection = s.protection ∧
       t.checker = s.checker ∧ t.remap = s.remap ∧ t.arbiter = s.arbiter ∧
       t.lines.haltLatch = s.lines.haltLatch ∧ t.lines.force = s.lines.force ∧
       (s.stroke.state = .arming → t.stroke.state = .idle ∧ t.refusals = s.refusals ++
         { strokeNumber := s.strokeNumber, reason := .abandoned, detailKind := .none, detailIndex := 0 } :: pend) ∧
       (s.stroke.state ≠ .arming → t.refusals = s.refusals ++ pend) ∧
       (s.stroke.state = .armed ∨ s.stroke.state = .acquiring →
         t.stroke.outcome = some .aborted ∧ t.stroke.armTimer = none ∧ t.stroke.stallTimer = none ∧
           (t.stroke.state = .closing ∨ t.stroke.state = .reporting) ∧ s.roomWaitDropped t) ∧
       (s.stroke.state = .acquiring → 0 < s.stroke.samplesTaken → s.walkBegun t) ∧
       (s.stroke.state = .closing →
         t.stroke.outcome = some .aborted ∧ t.stroke.state = .reporting ∧ t.walker.state = .stopped ∧
           t.walker.held = none ∧ t.walker.rejectMask = s.walker.rejectMask) ∧
       (s.stroke.state = .reporting → t.stroke.outcome = s.stroke.outcome ∧ t.stroke.state = .reporting))) ∧
  (∀ s : State, s.serves → s.stroke.pendingPlan = none →
     let w := s.oneBeat 0x2420 (fullBeat 1)
     (s.stroke.state = .armed → s.stroke.samplesTaken = 0 →
       ∃ t, exec (.abort w) s = .next t ∧ s.endedEmpty t .aborted) ∧
     (s.stroke.state = .acquiring → 0 < s.stroke.samplesTaken → (∃ n < 4, Plan.active s.stroke.latched n = true) →
       ∃ t, exec (.abort w) s = .next t ∧ t.writer.queue = s.writer.queue) ∧
     (s.stroke.state = .closing →
       ∃ t, exec (.abort w) s = .next t ∧ t.records = s.records ++ [.stroke (s.composeStroke .aborted)] ∧
         t.lines = (if s.writer.queue = [] ∧ s.ringFull = true ∧ s.writerBusy = false then
           { s.lines with flags := s.lines.flags ||| 0x20#9 } else s.lines))) ∧
  (∀ s : State, s.serves → s.stroke.state = .reporting → s.stroke.pendingPlan = none →
     let w := s.oneBeat 0x2420 (fullBeat 1)
     ∃ t, exec (.abort w) s = .next t ∧
       t.writer.queue = s.writer.queue.filter (fun e => !(e.record.isPin && !e.issued)) ∧
       t.walker.omitted = s.walker.omitted + (s.writer.queue.filter fun e => e.record.isPin && !e.issued).length ∧
       t.walker.written = s.walker.written ∧
       (let newHead : Prop := ∃ e es, s.writer.queue = e :: es ∧ e.record.isPin = true ∧ e.issued = false ∧ t.writer.queue ≠ []
        (newHead → s.ringFull = true → s.writerBusy = false →
          t.lines = { s.lines with flags := s.lines.flags ||| 0x20#9 } ∧ t.writer.waitMarked = true) ∧
        (¬ (newHead ∧ s.ringFull = true ∧ s.writerBusy = false) → t.lines = s.lines)))


/-! ## The other words of the command area, and the plan -/


/-- The event enable word: each enable in an enabled byte takes the written bit, and nothing else changes: no flag is raised and no arming
abandoned (R137). The event acknowledge word: each flag whose bit is 1 in an enabled byte is cleared, and nothing else changes (R136). -/
def Obligations.EventWords : Prop :=
  ((∀ (s : State) (b : Beat), s.serves →
     let w := s.oneBeat 0x2428 b
     ∃ t, exec (.eventEnable w) s = .next t ∧
       (∀ f : EventFlag, t.lines.enables.getLsbD f.bit =
         if b.enable.getLsbD (f.bit / 8) then b.data.getLsbD f.bit else s.lines.enables.getLsbD f.bit) ∧
       t = ({ s with
         lines := { s.lines with enables := t.lines.enables }
         writer := { s.writer with dirty := s.writer.dirty || t.lines.enables != s.lines.enables } }).forward .s (.write w)) ∧
   (∀ b k (s t : State), exec (.powerOnReset b k) s = .next t → t.lines.enables = 0#9) ∧
   (∀ s t : State, exec .warmReset s = .next t → t.lines.enables = s.lines.enables)) ∧
  (∀ (s : State) (b : Beat), s.serves →
     let w := s.oneBeat 0x2424 b
     ∃ t, exec (.eventAcknowledge w) s = .next t ∧
       (∀ f : EventFlag, t.flagSet f =
         (s.flagSet f && !(b.data.getLsbD f.bit && b.enable.getLsbD (f.bit / 8)))) ∧
       t = ({ s with
         lines := { s.lines with flags := t.lines.flags }
         writer := { s.writer with dirty := s.writer.dirty || t.lines.flags != s.lines.flags } }).forward .s (.write w))

/-- The protection word: a request that clears a set flag drops the write with PROTECT; any other adds the requested flags, and ENFORCE
going from clear to set turns FORCED_OFF into NONE (R133, R160, R161). No command clears FREEZE_PROTECTION or ENFORCE but power-on
reset, and none clears a freeze flag but power-on reset and a RELEASE with result DONE (R159). -/
def Obligations.ProtectionWordAndFlags : Prop :=
  (∀ (s : State) (b : Beat), s.serves →
     let w := s.oneBeat 0x242C b
     let asks : BitVec 4 := if b.enable.getLsbD 0 then b.data.extractLsb' 0 4 else 0#4
     ((b.enable.getLsbD 0 = true ∧ s.protection &&& ~~~asks ≠ 0#4) →
       ∃ t, exec (.protectionWordWrite w) s = .next t ∧ t.portS.status = .free ∧ t.portS.answer = some .dropped ∧
         t.protection = s.protection ∧ t.flagSet .protect = true) ∧
     (¬ (b.enable.getLsbD 0 = true ∧ s.protection &&& ~~~asks ≠ 0#4) →
       exec (.protectionWordWrite w) s = .next (({ s with
         protection := s.protection ||| asks
         lines := { s.lines with force :=
           if s.enforce = false ∧ asks.getLsbD 3 = true ∧ s.lines.force = ForceState.forcedOff then ForceState.none
             else s.lines.force }
         writer := { s.writer with dirty := s.writer.dirty || (s.protection ||| asks) != s.protection } }).forward .s
           (.write w)))) ∧
  (∀ (c : Instr) (s t : State), exec c s = .next t → (∀ b k, c ≠ .powerOnReset b k) →
     (s.freezeProtection = true → t.freezeProtection = true) ∧ (s.enforce = true → t.enforce = true) ∧
     ((s.freezeEnvelopes = true ∧ t.freezeEnvelopes = false) ∨ (s.freezeMap = true ∧ t.freezeMap = false) →
       t.writer.cmdCode = 6#32 ∧ t.writer.cmdResult = .done ∧ s.freezeProtection = false ∧ s.stroke.state = .idle))

/-- The capacity of the ring in use is the shadow's ring capacity when that is a power of two from 16 to 4096, and 16 otherwise (R184).
The ring consumer index word: the requested value is bits 0..11 of the word, those in a byte whose enable is clear taken from the
current consumer; a value in the span from the consumer forward to the producer becomes the consumer; any other raises INDEX and leaves
the consumer (R186). In ARMING, an INDEX raised from clear while enabled abandons the arming (R91, R138; the pending plan is started
whatever RING_WAIT does in that event: log 10, DEDUCED). -/
def Obligations.ConsumerIndexInSpan : Prop :=
  (∀ s : State,
    let given := (s.recipe.shadow.readWord 0x10).toNat
    let valid : Prop := ∃ e, 4 ≤ e ∧ e ≤ 12 ∧ given = 2 ^ e
    (valid → s.ringCapacity = given) ∧ (¬ valid → s.ringCapacity = 16)) ∧
  ∀ (s : State) (b : Beat) (v : Nat), s.serves → v < 4096 →
    (∀ i < 12, v.testBit i = if b.enable.getLsbD (i / 8) then b.data.getLsbD i else s.writer.consumer.testBit i) →
    let w := s.oneBeat 0x2430 b
    let cap := s.ringCapacity
    let inside : Prop := v < cap ∧
      (v + cap - s.writer.consumer) % cap ≤ (s.writer.producer + cap - s.writer.consumer) % cap
    let noticed : Prop := s.stroke.state = .arming ∧ s.flagSet .index = false ∧ s.lines.enables.getLsbD 6 = true
    (inside →
      exec (.ringConsumerIndexWrite w) s = .next (({ s with
        writer := { s.writer with consumer := v, dirty := s.writer.dirty || v != s.writer.consumer } }).forward .s
          (.write w))) ∧
    (¬ inside → ¬ noticed →
      exec (.ringConsumerIndexWrite w) s = .next (({ s with
        lines := { s.lines with flags := s.lines.flags ||| 0x40#9 }
        writer := { s.writer with dirty := s.writer.dirty || !s.flagSet .index } }).forward .s (.write w))) ∧
    (¬ inside → noticed → s.owedOk →
      ∃ t, exec (.ringConsumerIndexWrite w) s = .next t ∧ s.abandonedTo t ∧ t.flagSet .index = true ∧
        t.writer.consumer = s.writer.consumer ∧ t.portS.status = .outstanding (.write w) false)


/-- A plan write updates the staging copy byte by byte and nothing else of the part (R81). -/
def Obligations.PlanWriteStages : Prop :=
  ∀ (s : State) (i : Fin 8) (b : Beat), s.serves → ¬ (i = 7 ∧ b.enable = 0xF#4 ∧ b.data = 1#32) →
    let w := s.oneBeat (0x2400 + 4 * i) b
    ∃ x : Word, exec (.planWrite w) s =
        .next (({ s with recipe := { s.recipe with staging := s.recipe.staging.set i x } }).forward .s (.write w)) ∧
      ∀ k : Fin 4, byteOf x k = if b.enable.getLsbD k then byteOf b.data k else byteOf s.recipe.staging[i] k

/-- A go word taken in IDLE latches the staging copy and enters ARMING; taken while a stroke is under way it makes the pending plan; taken
with one pending, it replaces that plan, which is refused SUPERSEDED, and the stroke or the arming under way goes on (R82, R84, R85, R91).
Where the SUPERSEDED record enters an empty queue on a full ring, it raises RING_WAIT (R185); in ARMING, with RING_WAIT enabled and clear,
that abandons the arming, and the plan just made pending is started (R86, R91, R138). One 8-beat burst that writes the whole plan record,
ARM included, arms with the plan it carries (R82). -/
def Obligations.ArmLatchesOrPends : Prop :=
  (∀ s : State, s.serves → s.refusalOccupied = false → s.owedOk →
     let w := s.oneBeat 0x241C (fullBeat 1)
     let plan := s.recipe.staging.set 7 1#32
     (s.stroke.state = .idle →
       exec (.arm w) s = .next (({ s with
         recipe := { s.recipe with staging := plan }
         stroke := { s.stroke with state := .arming, latched := plan, walk := .check 1 }
         writer := { s.writer with dirty := true } }).forward .s (.write w))) ∧
     (s.stroke.state ≠ .idle → s.stroke.pendingPlan = none →
       exec (.arm w) s = .next (({ s with
         recipe := { s.recipe with staging := plan }
         stroke := { s.stroke with pendingPlan := some plan }
         writer := { s.writer with dirty := true } }).forward .s (.write w))) ∧
     let meets : Prop := s.writer.queue = [] ∧ s.ringFull = true ∧ s.writerBusy = false
     let notice : Prop := meets ∧ s.flagSet .ringWait = false ∧ s.lines.enables.getLsbD 5 = true
     (∀ old, s.stroke.state ≠ .idle → s.stroke.pendingPlan = some old →
       let superseded : RefusalRecord :=
         { strokeNumber := Plan.strokeNumber old, reason := .superseded, detailKind := .none, detailIndex := 0 }
       (¬ (s.stroke.state = .arming ∧ notice) →
         ∃ t, exec (.arm w) s = .next t ∧ t.stroke = { s.stroke with pendingPlan := some plan } ∧
           t.recipe = { s.recipe with staging := plan } ∧ t.checker = s.checker ∧ t.remap = s.remap ∧
           t.lines = (if meets then { s.lines with flags := s.lines.flags ||| 0x20#9 } else s.lines) ∧
           t.refusals = s.refusals ++ [superseded]) ∧
       (s.stroke.state = .arming → notice →
         ∃ t, exec (.arm w) s = .next t ∧ t.flagSet .ringWait = true ∧ t.stroke.state = .arming ∧ t.stroke.latched = plan ∧
           t.stroke.walk = .check 1 ∧ t.stroke.pendingPlan = none ∧
           t.recipe = { s.recipe with staging := plan } ∧ t.checker = s.checker ∧ t.remap = s.remap ∧
           t.refusals = s.refusals ++ [superseded,
             { strokeNumber := s.strokeNumber, reason := .abandoned, detailKind := .none, detailIndex := 0 }]))) ∧
  (∀ (s : State) (ws : Vector Word 8), s.serves → s.stroke.state = .idle → s.refusalOccupied = false → ws[7] = 1#32 →
     let w : Write := { addr := toAddr (s.regionBase + 0x2400), beats := ws.toList.map fullBeat }
     exec (.arm w) s = .next (({ s with
       recipe := { s.recipe with staging := ws }
       stroke := { s.stroke with state := .arming, latched := ws, walk := .check 1 }
       writer := { s.writer with dirty := true } }).forward .s (.write w)))


/-- A go word that finds the refusal entry occupied waits at port S and changes nothing else; when the entry is free and no refusal is
owed, the end of the wait takes it (R83, R84). The event that frees the entry takes it: the completion of the REFUSAL's write, where no
owed refusal fills the entry again (R83, R182). In ARMING with REFUSAL enabled and clear, the order of that event is the model's operand
(log 23, DESIGN CHOICE): the flag first, and the abandoned arming's REFUSAL fills the entry before the go word; the go word first, and
it is the pending plan that the abandonment starts. That this plan is in ARMING also where MEMERR rises enabled in the same event is the
model's reading (log 9, DEDUCED), and so is that it is where the abandoned arming's REFUSAL meets a full ring and raises an enabled
RING_WAIT (log 10, DEDUCED). -/
def Obligations.ArmWaitsForTheRefusalEntry : Prop :=
  (∀ s : State,
    let w := s.oneBeat 0x241C (fullBeat 1)
    let plan := s.recipe.staging.set 7 1#32
    (s.serves → s.refusalOccupied = true →
      exec (.arm w) s = .next (s.setPort .s { s.portS with status := .waiting (.write w) .refusalEntry })) ∧
    (s.portS.status = .waiting (.write w) .refusalEntry → s.refusalOccupied = true ∨ s.stroke.owed ≠ [] →
      exec .armWaitEnd s = .next s) ∧
    (s.portS.status = .waiting (.write w) .refusalEntry → s.refusalOccupied = false → s.stroke.owed = [] →
      s.stroke.state = .idle →
      exec .armWaitEnd s = .next (({ s with
        recipe := { s.recipe with staging := plan }
        stroke := { s.stroke with state := .arming, latched := plan, walk := .check 1 }
        writer := { s.writer with dirty := true } }).forward .s (.write w)))) ∧
  (∀ (s : State) (x : Transaction) (rest : List Transaction) (e : ReportEntry) (es : List ReportEntry) (okay first : Bool),
    s.arbiter.inflight = x :: rest → x.kind = .record → x.discard = false → s.writer.queue = e :: es →
    e.record.isRefusal = true → (es.filter fun y => y.record.isRefusal) = [] → s.walker.state ≠ .paused →
    let w := s.oneBeat 0x241C (fullBeat 1)
    let plan := s.recipe.staging.set 7 1#32
    s.portS.status = .waiting (.write w) .refusalEntry →
    (s.stroke.owed = [] → s.stroke.state = .idle → s.lines.enables = 0#9 →
      ∃ t, exec (.recordWriteComplete okay first) s = .next t ∧ t.portS.status = .outstanding (.write w) false ∧
        t.stroke = { s.stroke with state := .arming, latched := plan, walk := .check 1 } ∧
        t.recipe = { s.recipe with staging := plan } ∧ t.writer.queue = es ∧ t.flagSet .refusal = true) ∧
    (∀ r rs, s.stroke.owed = r :: rs → s.stroke.state = .idle →
      ∃ t, exec (.recordWriteComplete okay first) s = .next t ∧ t.portS = s.portS ∧ t.recipe = s.recipe ∧
        t.stroke = { s.stroke with owed := rs } ∧ t.records = es.map ReportEntry.record ++ [.refusal r]) ∧
    (s.stroke.owed = [] → s.stroke.state = .arming → s.stroke.pendingPlan = none → s.flagSet .refusal = false →
      s.lines.enables.getLsbD 1 = true →
      let gone : Record := .refusal
        { strokeNumber := s.strokeNumber, reason := .abandoned, detailKind := .none, detailIndex := 0 }
      (∃ t, exec (.recordWriteComplete okay true) s = .next t ∧ t.portS = s.portS ∧ t.stroke.state = .idle ∧
        t.records = es.map ReportEntry.record ++ [gone]) ∧
      (∃ t, exec (.recordWriteComplete okay false) s = .next t ∧ t.portS.status = .outstanding (.write w) false ∧
        t.stroke.state = .arming ∧ t.stroke.latched = plan ∧ t.stroke.pendingPlan = none ∧
        t.records = es.map ReportEntry.record ++ [gone])))


/-! ## Writes to the control region -/


/-- The drop decision, and what a dropped write does: DROPPED, PROTECT, the first refused address when PROTECT and STRAY were both
clear, and nothing else of the part (R139, R161 to R163), but that in ARMING a PROTECT raised from clear while enabled abandons the
arming (R91, R138; the pending plan is started whatever RING_WAIT does in that event: log 10, DEDUCED). A write from port S to which none
of the causes applies is not dropped: it is taken and forwarded, or it carries a go word and waits for the refusal entry (R83, R142). -/
def Obligations.DroppedControlWrite : Prop :=
  ∀ (c : Instr) (p : PortId) (w : Write) (s : State), requestOf c = some (p, .write w) → s.portOpen p →
    (Request.write w).wellFormed = true → s.inRegion w.addr.toNat = true → s.stroke.state ≠ .loading →
    let start := w.addr.toNat - s.regionBase
    let causes : Prop := p = .a ∨ ∃ j, ∃ b, w.beats[j]? = some b ∧
      (let off := start + 4 * j
       (0x2480 ≤ off ∧ off < 0x24C0) ∨
       (off < 0x100 ∧ s.freezeMap = true) ∨ (0x100 ≤ off ∧ off < 0x1400 ∧ s.freezeEnvelopes = true) ∨
       (0x1400 ≤ off ∧ off < 0x2400 ∧ s.freezeMap = true) ∨
       (off = 0x242C ∧ b.enable.getLsbD 0 = true ∧ s.protection &&& ~~~(b.data.extractLsb' 0 4) ≠ 0#4))
    let waits : Prop := s.refusalOccupied = true ∧ ∃ j, ∃ b, w.beats[j]? = some b ∧
      start + 4 * j = 0x241C ∧ b.enable = 0xF#4 ∧ b.data = 1#32
    let first := if s.flagSet .protect || s.flagSet .stray then s.lines.firstRefused else w.addr
    let noticed : Prop := s.stroke.state = .arming ∧ s.flagSet .protect = false ∧ s.lines.enables.getLsbD 3 = true
    (s.dropDecision p start w.beats = true ↔ causes) ∧
    (causes → ¬ noticed → exec c s = .next (({ s with
      lines := { s.lines with flags := s.lines.flags ||| 0x8#9, firstRefused := first }
      writer := { s.writer with dirty := s.writer.dirty || !s.flagSet .protect } }).setPort p
        { s.port p with answer := some .dropped })) ∧
    (causes → noticed → s.owedOk → ∃ t, exec c s = .next t ∧ s.abandonedTo t ∧ t.flagSet .protect = true ∧
      t.lines.firstRefused = first ∧ t.recipe = s.recipe ∧ t.protection = s.protection ∧ t.remap = s.remap ∧
      t.port p = { s.port p with answer := some .dropped }) ∧
    (¬ causes → ¬ waits → exec c s = .next ((s.takeControl start w.beats).forward .s (.write w))) ∧
    (¬ causes → waits →
      exec c s = .next (s.setPort .s { s.portS with status := .waiting (.write w) .refusalEntry }))


/-- A port S write that the decision lets pass and that no refusal entry holds is taken: the part acts on its beats in beat order within
the one event, and the write is forwarded; plain words have no action (R142, R162, R168). -/
def Obligations.TakenControlWrite : Prop :=
  ((∀ (c : Instr) (w : Write) (s : State), requestOf c = some (.s, .write w) → s.serves →
     (Request.write w).wellFormed = true → s.inRegion w.addr.toNat = true →
     s.dropDecision .s (w.addr.toNat - s.regionBase) w.beats = false →
     (s.refusalOccupied = false ∨ ∀ j b, w.beats[j]? = some b →
       ¬ (w.addr.toNat - s.regionBase + 4 * j = 0x241C ∧ b.enable = 0xF#4 ∧ b.data = 1#32)) →
     exec c s = .next ((s.takeControl (w.addr.toNat - s.regionBase) w.beats).forward .s (.write w))) ∧
   (∀ (s : State) (off : Nat) (b : Beat) (bs : List Beat), Config.recipeBytes ≤ off →
     s.takeControl off (b :: bs) = (s.takeControl off [b]).takeControl (off + 4) bs)) ∧
  (∀ (w : Write) (s : State), s.serves → (Request.write w).wellFormed = true → s.inRegion w.addr.toNat = true →
     (let off := w.addr.toNat - s.regionBase
      (0x2434 ≤ off ∧ off < 0x2480) ∨ 0x24C0 ≤ off) →
     exec (.controlRegionWrite .s w) s = .next (s.forward .s (.write w)))

/-- A recipe write from port S whose area no set freeze flag covers is taken (R163): every enabled byte of every beat reaches the
shadow, no other byte does, and a sum that was the sum of the shadow's words still is (R153, R154). The shadow's list is in its
canonical form (StepKeepsShadowAndSum). -/
def Obligations.RecipeWriteUpdatesShadow : Prop :=
  ∀ (w : Write) (s : State), s.serves → (Request.write w).wellFormed = true → s.inRegion w.addr.toNat = true →
    w.addr.toNat - s.regionBase < 0x2400 →
    s.thawedAt (w.addr.toNat - s.regionBase) → s.recipe.shadow.wf = true →
    ∃ t, exec (.recipeWrite w) s = .next t ∧ t.portS.status = .outstanding (.write w) false ∧
      (∀ i, t.recipe.shadow.readByte i =
        (byteGiven (w.addr.toNat - s.regionBase) w.beats i).getD (s.recipe.shadow.readByte i)) ∧
      (s.recipe.sum = shadowSum s.recipe.shadow → t.recipe.sum = shadowSum t.recipe.shadow) ∧
      t.recipe.staging = s.recipe.staging ∧ t.protection = s.protection ∧ t.checker = s.checker ∧ t.remap = s.remap


/-- A recipe write that no set freeze flag covers and that changes no hard bit leaves everything but the shadow, the sum, the dirty flag
and the port (R23, R155). One that changes a hard bit of a word it touches gives the stroke controller a notice: what it does with it, by
state, a landing write that waits for room dropped with STRAY where it ends the stroke (R62, R95, R101, R121, R125, R155); the pending plan
of an abandoned arming is started whatever RING_WAIT does in that event (log 10, DEDUCED). Which bits are hard (R22, R155). A write that
changes the ring base or the ring capacity sets both indexes and the lap bit to 0, and a record write outstanding then no longer advances
the producer; any other write leaves them (R184). -/
def Obligations.RecipeWriteAndTheStroke : Prop :=
  (∀ (w : Write) (s : State), s.serves → (Request.write w).wellFormed = true → s.inRegion w.addr.toNat = true →
     w.addr.toNat - s.regionBase < 0x2400 →
     s.thawedAt (w.addr.toNat - s.regionBase) →
     (∀ j < w.beats.length, hardDiffers s.recipe.shadow
       (applyBeats s.recipe.shadow (w.addr.toNat - s.regionBase) w.beats) (w.addr.toNat - s.regionBase + 4 * j) = false) →
     ∃ t, exec (.recipeWrite w) s = .next t ∧
       t = ({ s with recipe := t.recipe, writer := { s.writer with dirty := t.writer.dirty } }).forward .s (.write w)) ∧
  (∀ (w : Write) (s : State), s.serves → (Request.write w).wellFormed = true → s.inRegion w.addr.toNat = true →
     w.addr.toNat - s.regionBase < 0x2400 →
     s.thawedAt (w.addr.toNat - s.regionBase) →
     (∃ j < w.beats.length, hardDiffers s.recipe.shadow
       (applyBeats s.recipe.shadow (w.addr.toNat - s.regionBase) w.beats) (w.addr.toNat - s.regionBase + 4 * j) = true) →
     ∃ t, exec (.recipeWrite w) s = .next t ∧
       (s.stroke.state = .idle ∨ s.stroke.state = .reporting → t.stroke = s.stroke ∧ t.writer.queue = s.writer.queue) ∧
       (s.stroke.state = .arming → s.owedOk → s.abandonedTo t) ∧
       (s.stroke.state = .armed ∨ s.stroke.state = .acquiring ∨ s.stroke.state = .closing →
         t.stroke.state = .reporting ∧ t.stroke.outcome = some .recipeChanged ∧ t.stroke.armTimer = none ∧
           t.stroke.stallTimer = none ∧ t.walker.state = .stopped ∧ t.checker = s.checker ∧
           t.records = s.records ++ [.stroke (s.composeStroke .recipeChanged)]) ∧
       (s.stroke.state = .armed ∨ s.stroke.state = .acquiring → s.roomWaitDropped t)) ∧
  (∀ (old new : Memory) (off : Nat), off % 4 = 0 →
     let hard : Nat → Prop := fun i =>
       off < 0x20 ∨
       (∃ n < 4, off = 0x40 + 0x10 * n ∧ (i ≤ 9 ∨ 16 ≤ i ∧ i ≤ 25)) ∨
       (∃ n < 32, off = 0x100 + 0x90 * n ∧ i ≤ 7) ∨
       (∃ n < 32, ∃ z < 8, off = 0x110 + 0x90 * n + 0x10 * z ∧ i ≤ 1) ∨
       (∃ n < 32, ∃ z < 8, off = 0x114 + 0x90 * n + 0x10 * z) ∨
       (∃ c < 1024, off = 0x1400 + 4 * c ∧ (16 ≤ i ∧ i ≤ 20 ∨ i = 24))
     (hardDiffers old new off = true ↔
       ∃ i < 32, hard i ∧ (old.readWord off).getLsbD i ≠ (new.readWord off).getLsbD i)) ∧
  (∀ (w : Write) (s : State), s.serves → (Request.write w).wellFormed = true → s.inRegion w.addr.toNat = true →
     w.addr.toNat - s.regionBase < 0x2400 →
     s.thawedAt (w.addr.toNat - s.regionBase) →
     ∃ t, exec (.recipeWrite w) s = .next t ∧
       (let moved : Prop := t.recipe.shadow.readWord 0xC ≠ s.recipe.shadow.readWord 0xC ∨
          t.recipe.shadow.readWord 0x10 ≠ s.recipe.shadow.readWord 0x10
        (moved → t.writer.producer = 0 ∧ t.writer.consumer = 0 ∧ t.writer.lap = false ∧ t.writer.dirty = true ∧
          t.arbiter = { s.arbiter with inflight := s.arbiter.inflight.map fun (x : Transaction) =>
            { x with advances := false } }) ∧
        (¬ moved → t.writer.producer = s.writer.producer ∧ t.writer.consumer = s.writer.consumer ∧
          t.writer.lap = s.writer.lap ∧ t.arbiter = s.arbiter)))


/-! ## Landing writes -/


/-- A landing write that fails one of tests 1 to 4 of R55 is DROPPED with STRAY (R56, R139); one that passes them and finds no room for its
beats waits at its port (R62). In both cases nothing else of the part changes. -/
def Obligations.LandingWriteNotTaken : Prop :=
  (∀ (p : PortId) (w : Write) (s : State), s.portOpen p → (Request.write w).wellFormed = true →
     s.inRegion w.addr.toNat = false → s.inLanding w.addr.toNat = true →
     (p ≠ (if (Plan.word s.stroke.latched 0).getLsbD 16 then .s else .a) ∨
       (s.stroke.state ≠ .armed ∧ s.stroke.state ≠ .acquiring) ∨
       w.addr.toNat ≠ landingBase s.recipe.shadow + 4 * s.remap.sequence ∨ ∃ b ∈ w.beats, b.enable ≠ 0xF#4) →
     exec (.landingWrite p w) s = .next (({ s with
       lines := { s.lines with
         flags := s.lines.flags ||| 0x10#9
         firstRefused := if s.flagSet .protect || s.flagSet .stray then s.lines.firstRefused else w.addr }
       writer := { s.writer with dirty := s.writer.dirty || !s.flagSet .stray } }).setPort p
         { s.port p with answer := some .dropped })) ∧
  (∀ (p : PortId) (w : Write) (s : State), s.portOpen p → (Request.write w).wellFormed = true →
     s.inRegion w.addr.toNat = false → s.inLanding w.addr.toNat = true → s.landingAccepted p w = true →
     64 < s.remap.queue.length + w.beats.length →
     exec (.landingWrite p w) s = .next (s.setPort p { s.port p with status := .waiting (.write w) .room }))

/-- What taking a landing write does, presented (LANDING_WRITE) or after its wait for room: k, the counts, the answer, the entries that
join the queue, the timers, and how the stroke ends in the same event (R55, R58, R61, R64 to R72, R94). The stroke ends HALTED, with the
halt latch and the HALT flag set, exactly when a beat of the write gives the halting flag, a halting last sample included; without one it
ends COMPLETE exactly with the last sample, and the latch and the flag stay (R53, R70, R97, R128). The closing walk of the ended stroke
begins at the first cell of the lowest active slot (R102, R109). When a presented beat gives the flag is the matter of
BeatCountsAndHalting. -/
def Obligations.LandingWriteTaken : Prop :=
  ∀ (p : PortId) (w : Write) (s : State) (c : Instr),
    ((c = .landingWrite p w ∧ s.portOpen p ∧ (Request.write w).wellFormed = true) ∨
      (c = .waitingLandingWriteTaken p ∧ (s.port p).status = .waiting (.write w) .room)) →
    s.inRegion w.addr.toNat = false → s.inLanding w.addr.toNat = true →
    p = (if (Plan.word s.stroke.latched 0).getLsbD 16 then .s else .a) →
    (s.stroke.state = .armed ∨ s.stroke.state = .acquiring) →
    w.addr.toNat = landingBase s.recipe.shadow + 4 * s.remap.sequence → (∀ b ∈ w.beats, b.enable = 0xF#4) →
    s.remap.queue.length + w.beats.length ≤ 64 →
    let C := cellCount s.recipe.shadow
    let S := Plan.stepCount s.stroke.latched
    let k := s.remap.sequence
    let m := min w.beats.length (C * S - k)
    let burst := State.presentBurst { s with stroke := { s.stroke with state := .acquiring } } k false (w.beats.take m)
    let halted := burst.2.1
    ∃ t, exec c s = .next t ∧
      t.remap.sequence = k + m ∧ t.stroke.samplesTaken = k + m ∧
      t.stroke.stepsTaken =
        (if (Plan.word s.stroke.latched 0).getLsbD 17 then min (k + m) S else (k + m + C - 1) / C) ∧
      (t.port p).status = .free ∧
      (t.port p).answer = some (if m < w.beats.length then .trimmed else .done) ∧
      (∃ new, t.remap.queue = s.remap.queue ++ new ∧ new.length = m ∧
        ∀ j < m, ∃ e b, new[j]? = some e ∧ w.beats[j]? = some b ∧
          e.addr = toAddr (gridBase s.recipe.shadow +
            ((toolOf s.stroke.latched C (k + j)).1 * S + (toolOf s.stroke.latched C (k + j)).2) * 4) ∧
          e.data.extractLsb' 0 24 = b.data.extractLsb' 0 24 ∧ e.current = true ∧ e.issued = false) ∧
      t.recipe = s.recipe ∧ t.protection = s.protection ∧ t.arbiter = s.arbiter ∧
      t.stroke.latched = s.stroke.latched ∧ t.stroke.pendingPlan = s.stroke.pendingPlan ∧ t.stroke.armTimer = none ∧
      (halted = false → k + m ≠ C * S → t.stroke.state = .acquiring ∧ t.stroke.outcome = s.stroke.outcome ∧
        t.stroke.stallTimer = some (Plan.stallLimit s.stroke.latched)) ∧
      (halted = false → k + m = C * S → t.stroke.outcome = some .complete) ∧
      (halted = false → t.lines.haltLatch = s.lines.haltLatch ∧ t.flagSet .halt = s.flagSet .halt) ∧
      (halted = true → t.stroke.outcome = some .halted ∧ t.lines.haltLatch = true ∧ t.flagSet .halt = true ∧ p = .a) ∧
      (halted = true ∨ k + m = C * S → t.stroke.stallTimer = none ∧
        (t.stroke.state = .closing ∨ t.stroke.state = .reporting) ∧
        ((∃ n < 4, Plan.active s.stroke.latched n = true) → t.stroke.state = .closing ∧ t.writer.queue = s.writer.queue) ∧
        s.walkBegun t)


/-- One beat presented: a beat of an UNUSED or FROZEN pin, and a beat after the halting beat of its burst, is not judged and has the
zero tag; any other is judged against the profile its pin map entry names, and every other context is untouched (R30, R32). A taken
landing write, presented or after its wait for room: its beats up to the last sample are presented in beat order, each against the
contexts that the beats before it left; the contexts are theirs, and each queue entry carries the word with its beat's tag (R30, R53,
R67, R70). -/
def Obligations.LandingBeatJudged : Prop :=
  (∀ (s : State) (c step : Nat) (d : Word) (halted : Bool), c < 1024 →
     let skipped : Prop := halted = true ∨ (s.pin c).health = .unused ∨ (s.pin c).progress = .frozen
     let r := s.presentBeat c step d halted
     let j := judge s.recipe.shadow (pinProfile s.recipe.shadow c) step d (s.pin c)
     (skipped → r = ({ zone := 0, band := .notChecked, mark := false, newFault := false }, halted, s)) ∧
     (¬ skipped → r.1 = j.2 ∧ r.2.2.pin c = j.1.ctx ∧ (∀ c', c' ≠ c → r.2.2.pin c' = s.pin c') ∧
       r.2.2 = { s with checker := r.2.2.checker })) ∧
  (∀ (p : PortId) (w : Write) (s : State) (c : Instr),
     ((c = .landingWrite p w ∧ s.portOpen p ∧ (Request.write w).wellFormed = true) ∨
       (c = .waitingLandingWriteTaken p ∧ (s.port p).status = .waiting (.write w) .room)) →
     s.inRegion w.addr.toNat = false → s.inLanding w.addr.toNat = true → s.landingAccepted p w = true →
     s.remap.queue.length + w.beats.length ≤ 64 →
     let k := s.remap.sequence
     let m := min w.beats.length (s.cells * s.steps - k)
     let burst := State.presentBurst { s with stroke := { s.stroke with state := .acquiring } } k false (w.beats.take m)
     ∃ t new, exec c s = .next t ∧ t.checker = burst.2.2.checker ∧ t.remap.queue = s.remap.queue ++ new ∧
       new.length = m ∧ burst.1.length = m ∧
       (∀ j < m, (toolOf s.stroke.latched s.cells (k + j)).1 < 1024) ∧
       ∀ j < m, ∃ e b tag, new[j]? = some e ∧ w.beats[j]? = some b ∧ burst.1[j]? = some tag ∧ e.data = stamp b.data tag)


/-- From landing offset to tool cell and step: the two tables of R65, and the mapping is one to one onto the cells and steps, each
cell's samples coming in ascending step order (R65). -/
def Obligations.OffsetToCellAndStep : Prop :=
  ∀ (p : Plan) (C : Nat),
    let S := Plan.stepCount p
    (∀ o, scanOf p C o = if (Plan.word p 0).getLsbD 17 then (o / S, o % S) else (o % C, o / C)) ∧
    (∀ o, toolOf p C o =
      ((if (Plan.word p 0).getLsbD 18 then C - 1 - (scanOf p C o).1 else (scanOf p C o).1), (scanOf p C o).2)) ∧
    (∀ o, o < C * S → (scanOf p C o).1 < C ∧ (toolOf p C o).1 < C ∧ (toolOf p C o).2 < S) ∧
    (∀ c st, c < C → st < S → ∃ o, o < C * S ∧ toolOf p C o = (c, st) ∧
      ∀ o', o' < C * S → toolOf p C o' = (c, st) → o' = o) ∧
    (∀ o o', o < o' → o' < C * S → (toolOf p C o).1 = (toolOf p C o').1 → (toolOf p C o).2 < (toolOf p C o').2)

/-- The remap queue is first in, first out: a reset at the front of the queue empties it; memory's answer to a beat write takes the
oldest entry, and adds entries only where a landing write waited for room, or waited on a queued beat, and is taken in that event (R61,
R193; for room that is the model's reading of R62: log 3, DEDUCED); every other step adds entries only at its end. An entry's address
and word never change (R61, R66, R71). -/
def Obligations.RemapQueueIsFirstInFirstOut : Prop :=
  ∀ (s t : State), step s = .next t →
    let body : RemapEntry → Word × Word := fun e => (e.addr, e.data)
    let empties : Prop := (∃ b k, s.pending.head? = some (.powerOnReset b k)) ∨
      (s.pending.head? = some .warmReset ∧ s.lines.resetN = false)
    let answered : Prop := (∃ okay, s.pending.head? = some (.gridWriteAnswer okay)) ∧
      ∃ x, s.arbiter.inflight.head? = some x ∧ x.kind = .remapBeat ∧ x.discard = false
    (empties → t.remap.queue = []) ∧
    (¬ empties → answered → ∃ new, t.remap.queue.map body = (s.remap.queue.map body).tail ++ new ∧
      ((∀ p, s.waitingFor p .room = none ∧ s.waitingFor p .hazard = none) → new = [])) ∧
    (¬ empties → ¬ answered → ∃ new, t.remap.queue.map body = s.remap.queue.map body ++ new)


/-! ## Judging a sample -/


/-- Adding a fault: a member changes nothing; a new kind joins the set, fixes the first fault when the set was empty, and makes the pin
FAILED; no other field moves (R46). The CELL_OPEN sample adds CELL_FAULT, freezes the pin, and makes no other stage (R31). -/
def Obligations.FaultsAreAdded : Prop :=
  (∀ (x : PinContext) (k : FaultKind) (step : Nat),
     (x.hasFault k = true → x.addFault k step = x) ∧
     (x.hasFault k = false →
       (∀ j, (x.addFault k step).hasFault j = (x.hasFault j || j == k)) ∧
       x.addFault k step = { x with
         health := .failed
         faults := (x.addFault k step).faults
         firstFault := if x.faults = 0#9 then some k else x.firstFault
         firstFaultStep := if x.faults = 0#9 then some step else x.firstFaultStep })) ∧
  (∀ (m : Memory) (n step : Nat) (w : Word) (x : PinContext), w.getLsbD 17 = true →
     (judge m n step w x).1.ctx = { x.addFault .cellFault step with progress := .frozen } ∧
     (judge m n step w x).2 = { zone := 0, band := .notChecked, mark := false, newFault := true })

/-- SATURATED, the absolute limit, the peak and the count of samples checked (R44, R45), OVERRANGE and OVERFORCE added by these alone; zone
advance past every zone the step has passed, each with its exit check, NO_ENTRY and NOT_SEATED added by these alone, and the placing of
the sample (R34, R35). A sample of a cell that is not open adds no CELL_FAULT and no INCOMPLETE, and its NEWFAULT is set exactly when it
added a kind new to the fault set (R46, R47). -/
def Obligations.LimitPeakZoneAdvanceAndPlacing : Prop :=
  (∀ (m : Memory) (n step : Nat) (w : Word) (x : PinContext), w.getLsbD 17 = false →
     let force : Counts := if w.getLsbD 16 then 0xFFFF#16 else w.extractLsb' 0 16
     let r := judge m n step w x
     let y := r.1.ctx
     (y.hasFault .overrange = true ↔ x.hasFault .overrange = true ∨ w.getLsbD 16 = true) ∧
     (y.hasFault .overforce = true ↔ x.hasFault .overforce = true ∨ (absoluteLimit m n).toNat < force.toNat) ∧
     y.hasFault .cellFault = x.hasFault .cellFault ∧ y.hasFault .incomplete = x.hasFault .incomplete ∧
     (r.2.newFault = true ↔ ∃ k : FaultKind, y.hasFault k = true ∧ x.hasFault k = false) ∧
     (x.peakStep = none ∨ x.peakForce.toNat < force.toNat → y.peakForce = force ∧ y.peakStep = some step) ∧
     (x.peakStep ≠ none ∧ force.toNat ≤ x.peakForce.toNat → y.peakForce = x.peakForce ∧ y.peakStep = x.peakStep) ∧
     y.samplesChecked = x.samplesChecked + 1) ∧
  (∀ (m : Memory) (n step : Nat) (w : Word) (x : PinContext), w.getLsbD 17 = false → zoneCount m n ≤ 8 →
     1 ≤ x.zoneIndex → x.zoneIndex ≤ zoneCount m n + 1 →
     let y := (judge m n step w x).1.ctx
     x.zoneIndex ≤ y.zoneIndex ∧ y.zoneIndex ≤ zoneCount m n + 1 ∧
     (y.zoneIndex ≤ zoneCount m n → step ≤ lastStep m n y.zoneIndex) ∧
     (∀ z, x.zoneIndex ≤ z → z < y.zoneIndex → lastStep m n z < step) ∧
     (y.hasFault .noEntry = true ↔ x.hasFault .noEntry = true ∨
       (x.entryStep = none ∧ ∃ z, x.zoneIndex ≤ z ∧ z < y.zoneIndex ∧ zoneKind m n z = .entry)) ∧
     (y.hasFault .notSeated = true ↔ x.hasFault .notSeated = true ∨
       (x.seated = false ∧ ∃ z, x.zoneIndex ≤ z ∧ z < y.zoneIndex ∧ zoneKind m n z = .seat)) ∧
     y.progress =
       (if zoneCount m n < y.zoneIndex then .after
        else if firstStep m n y.zoneIndex ≤ step then .inZone
        else if y.zoneIndex = 1 then .before else .between))


/-- The band of an IN_ZONE sample: the ceiling first, then the floor, with 65535 for a SATURATED sample; it goes into the tag with the
zone index. Any other sample has zone 0 and NOT_CHECKED (R36, R47). -/
def Obligations.BandCeilingFirst : Prop :=
  ∀ (m : Memory) (n step : Nat) (w : Word) (x : PinContext), w.getLsbD 17 = false →
    let force : Counts := if w.getLsbD 16 then 0xFFFF#16 else w.extractLsb' 0 16
    let r := judge m n step w x
    let k := r.1.ctx.zoneIndex
    (r.1.ctx.progress = .inZone →
      r.2.zone = k ∧
      ((ceilingOf m n k).toNat < force.toNat → r.2.band = .above) ∧
      (force.toNat ≤ (ceilingOf m n k).toNat → force.toNat < (floorOf m n k).toNat → r.2.band = .below) ∧
      (force.toNat ≤ (ceilingOf m n k).toNat → (floorOf m n k).toNat ≤ force.toNat → r.2.band = .inBand) ∧
      ((ceilingOf m n k).toNat < (floorOf m n k).toNat → r.2.band ≠ .inBand)) ∧
    (r.1.ctx.progress ≠ .inZone → r.2.zone = 0 ∧ r.2.band = .notChecked)

/-- A pin that stays in its zone: the marks of ENTRY and SEAT, the drop check of TRAVEL and HOLD, the previous force (R37, R39, R40);
and its tally: an excursion raises it, an IN sample of a forgiving zone lowers it, the first excursion over tolerance latches the zone
and adds its band fault (R37 to R43). No sample adds COLLAPSE or a band fault without its condition; MARK is set exactly when the sample
fixed the entry step or the seat, which it does exactly when it is IN_ZONE in a zone of that kind with a force at or above the floor; an
entry step and a seat that are fixed stay fixed; a sample that is not IN_ZONE fixes no mark and, in the zone it was in, leaves the
tally, the zone fault latch and the previous force (R35, R37, R39, R40, R42, R43, R47). -/
def Obligations.ZoneKindsAndTally : Prop :=
  (∀ (m : Memory) (n step : Nat) (w : Word) (x : PinContext), w.getLsbD 17 = false →
     let k := x.zoneIndex
     k ≤ zoneCount m n → firstStep m n k ≤ step → step ≤ lastStep m n k →
     let force : Counts := if w.getLsbD 16 then 0xFFFF#16 else w.extractLsb' 0 16
     let r := judge m n step w x
     let y := r.1.ctx
     (zoneKind m n k = .entry → x.entryStep = none → (floorOf m n k).toNat ≤ force.toNat →
       y.entryStep = some step ∧ r.2.mark = true) ∧
     (zoneKind m n k = .entry → force.toNat < (floorOf m n k).toNat → y.entryStep = x.entryStep ∧ r.2.mark = false) ∧
     (zoneKind m n k = .seat → x.seated = false → (floorOf m n k).toNat ≤ force.toNat →
       y.seated = true ∧ y.seatStep = some step ∧ r.2.mark = true) ∧
     (zoneKind m n k = .seat → force.toNat < (floorOf m n k).toNat →
       y.seated = x.seated ∧ y.seatStep = x.seatStep ∧ r.2.mark = false) ∧
     (zoneKind m n k ≠ .entry → y.entryStep = x.entryStep) ∧
     (zoneKind m n k ≠ .seat → y.seated = x.seated ∧ y.seatStep = x.seatStep) ∧
     (zoneKind m n k = .travel ∨ zoneKind m n k = .hold →
       y.previousForce = some force ∧ r.2.mark = false ∧
       (y.hasFault .collapse = true ↔ x.hasFault .collapse = true ∨
         ((dropLimit m n).toNat ≠ 0 ∧ ∃ prev, x.previousForce = some prev ∧
           force.toNat + (dropLimit m n).toNat < prev.toNat)))) ∧
  (∀ (m : Memory) (n step : Nat) (w : Word) (x : PinContext), w.getLsbD 17 = false →
     let k := x.zoneIndex
     k ≤ zoneCount m n → firstStep m n k ≤ step → step ≤ lastStep m n k →
     let r := judge m n step w x
     let y := r.1.ctx
     let exc : Bool := match r.2.band with
       | .above => true
       | .below =>
         (match zoneKind m n k with
          | .entry => x.entryStep.isSome
          | .seat => false
          | .travel => true
          | .hold => true)
       | .inBand => false
       | .notChecked => false
     (exc = true →
       y.tally = min 255 (x.tally + 1) ∧
       (tolerance m n k < x.tally + 1 → x.zoneLatch = false →
         y.zoneLatch = true ∧ y.hasFault (if r.2.band = .above then .highForce else .lowForce) = true) ∧
       (x.tally + 1 ≤ tolerance m n k → y.zoneLatch = x.zoneLatch)) ∧
     (exc = false →
       y.zoneLatch = x.zoneLatch ∧
       y.tally = if r.2.band = .inBand ∧ forgiving m n k = true then x.tally - 1 else x.tally)) ∧
  (∀ (m : Memory) (n step : Nat) (w : Word) (x : PinContext),
     let r := judge m n step w x
     let y := r.1.ctx
     let stays : Prop := y.zoneIndex = x.zoneIndex
     let force : Counts := if w.getLsbD 16 then 0xFFFF#16 else w.extractLsb' 0 16
     let reaches : ZoneKind → Prop := fun kind => y.progress = .inZone ∧ zoneKind m n y.zoneIndex = kind ∧
       (floorOf m n y.zoneIndex).toNat ≤ force.toNat
     (x.entryStep = none → (y.entryStep ≠ none ↔ reaches .entry) ∧ (y.entryStep ≠ none → y.entryStep = some step)) ∧
     (x.seated = false → (y.seated = true ↔ reaches .seat) ∧
       y.seatStep = if y.seated then some step else x.seatStep) ∧
     (y.progress ≠ .inZone → y.entryStep = x.entryStep ∧ y.seated = x.seated ∧ y.seatStep = x.seatStep ∧
       r.2.mark = false ∧ (stays → y.tally = x.tally ∧ y.zoneLatch = x.zoneLatch ∧ y.previousForce = x.previousForce)) ∧
     (x.entryStep ≠ none → y.entryStep = x.entryStep) ∧
     (x.seated = true → y.seated = true ∧ y.seatStep = x.seatStep) ∧
     (r.2.mark = true ↔ (x.entryStep = none ∧ y.entryStep ≠ none) ∨ (x.seated = false ∧ y.seated = true)) ∧
     (y.hasFault .collapse = true → x.hasFault .collapse = true ∨
       (stays ∧ y.progress = .inZone ∧ (zoneKind m n y.zoneIndex = .travel ∨ zoneKind m n y.zoneIndex = .hold))) ∧
     (∀ k : FaultKind, (k = .lowForce ∨ k = .highForce) → y.hasFault k = true → x.hasFault k = false →
       r.2.band = (if k = .highForce then .above else .below) ∧ y.zoneLatch = true ∧
       (stays → x.zoneLatch = false) ∧
       tolerance m n y.zoneIndex < (if stays then x.tally else 0) + 1 ∧
       (k = .lowForce → zoneKind m n y.zoneIndex ≠ .seat ∧
         (zoneKind m n y.zoneIndex = .entry → x.entryStep ≠ none))))


/-- One presented beat: the pins other than its own are untouched; a GOOD pin that becomes FAILED raises the failing count of its slot
and the total by 1; a halting condition arises only in ACQUIRING under a PORT_A plan, from a halting fault new to a pin of a slot
with its flag set, or from the total passing the threshold (R49 to R53). -/
def Obligations.BeatCountsAndHalting : Prop :=
  ∀ (s : State) (c step : Nat) (w : Word),
    (s.pin c).health ≠ .unused → (s.pin c).progress ≠ .frozen →
    let r := s.presentBeat c step w false
    let t := r.2.2
    let fails := (s.pin c).health = .good ∧ (t.pin c).health = .failed
    let slot := slotOf s.recipe.shadow s.stroke.latched c
    (∀ c', c' ≠ c → t.pin c' = s.pin c') ∧
    (∀ n, slot = some n → n < 4 ∧
      (fails → t.checker.totalFailing = s.checker.totalFailing + 1 ∧ t.slotFailing n = s.slotFailing n + 1 ∧
        ∀ n', n' ≠ n → t.slotFailing n' = s.slotFailing n') ∧
      (¬ fails → t.checker.totalFailing = s.checker.totalFailing ∧ ∀ n', t.slotFailing n' = s.slotFailing n')) ∧
    (r.2.1 = true ↔
      s.stroke.state = .acquiring ∧ (Plan.word s.stroke.latched 0).getLsbD 16 = false ∧
      ((∃ n, slot = some n ∧ haltOnHalting s.recipe.shadow n = true ∧ ∃ k : FaultKind, (k = .collapse ∨ k = .overforce) ∧
          (s.pin c).hasFault k = false ∧ (t.pin c).hasFault k = true) ∨
        (s.checker.totalFailing < t.checker.totalFailing ∧ Plan.haltThreshold s.stroke.latched ≠ 0 ∧
          Plan.haltThreshold s.stroke.latched < t.checker.totalFailing)))

/-- Between clearings a pin's zone index never decreases, its fault set loses no member, and a FAILED pin stays FAILED: through every
step but power-on reset and the success of an arming, warm reset included. Those two set every zone index back to 1, empty every fault
set, and set every health to GOOD or UNUSED (R29). -/
def Obligations.PinContextsOnlyGrow : Prop :=
  (∀ (s t : State), step s = .next t → (∀ b k, s.pending.head? ≠ some (.powerOnReset b k)) →
    ¬ (s.pending.head? = some .armingWalkEnd ∧ s.stroke.state = .arming ∧ t.stroke.state = .armed) →
    ∀ c, (s.pin c).zoneIndex ≤ (t.pin c).zoneIndex ∧ (∀ k, (s.pin c).hasFault k = true → (t.pin c).hasFault k = true) ∧
      ((s.pin c).health = .failed → (t.pin c).health = .failed)) ∧
  (∀ (s t : State), step s = .next t →
    ((∃ b k, s.pending.head? = some (.powerOnReset b k)) ∨
      (s.pending.head? = some .armingWalkEnd ∧ s.stroke.state = .arming ∧ t.stroke.state = .armed)) →
    ∀ c, (t.pin c).zoneIndex = 1 ∧ (t.pin c).faults = 0#9 ∧
      ((t.pin c).health = .good ∨ (t.pin c).health = .unused))

/-! ## Arming -/


/-- One check of the walk: it passes and the walk goes on, or the arming is refused PARAMETER with the check's detail, and a pending
plan is started (R17, R86 to R88). A REFUSAL that enters an empty queue while the ring is full and the report writer is free to write raises
RING_WAIT (R185); that a pending plan is in ARMING also where that RING_WAIT is raised from clear while enabled is the model's reading
(log 10, DEDUCED). -/
def Obligations.ArmingCheckPassesOrRefuses : Prop :=
  ∀ s : State, s.stroke.state = .arming → s.stroke.walk ≠ .finished →
    (s.checkFailure s.stroke.walk = none →
      exec .armingCheck s = .next { s with stroke := { s.stroke with
        walk := s.stroke.walk.after s.recipe.shadow s.stroke.latched } }) ∧
    (∀ kind idx, s.checkFailure s.stroke.walk = some (kind, idx) → s.owedOk →
      ∃ t, exec .armingCheck s = .next t ∧
        t.refusals = s.refusals ++
          [{ strokeNumber := s.strokeNumber, reason := .parameter, detailKind := kind, detailIndex := idx }] ∧
        t.checker = s.checker ∧ t.remap = s.remap ∧ t.recipe = s.recipe ∧ t.walker = s.walker ∧
        t.stroke.samplesTaken = s.stroke.samplesTaken ∧ t.stroke.stepsTaken = s.stroke.stepsTaken ∧
        t.stroke.outcome = s.stroke.outcome ∧ t.stroke.armTimer = s.stroke.armTimer ∧
        t.stroke.stallTimer = s.stroke.stallTimer ∧ t.stroke.pendingPlan = none ∧
        t.lines = (if s.writer.queue = [] ∧ s.ringFull = true ∧ s.writerBusy = false then
          { s.lines with flags := s.lines.flags ||| 0x20#9 } else s.lines) ∧
        (s.stroke.pendingPlan = none → t.stroke.state = .idle ∧ t.stroke.latched = s.stroke.latched) ∧
        (∀ q, s.stroke.pendingPlan = some q →
          t.stroke.state = .arming ∧ t.stroke.latched = q ∧ t.stroke.walk = .check 1))


/-- Checks 1 to 16 of the walk by the conditions of R17, the extents of checks 13 to 16 sharing no byte (R18); the checks of one active slot
(R19); a profile is valid exactly when the conditions of R20 hold, and the check of a pin is that of the profile it names; the checks come
in number order, then the active slots in ascending order, then the used pins in ascending order (R17). That a profile named by several
used pins is tested again at each of them is the model's reading of R20, R21 and R88 (log 25, DEDUCED). -/
def Obligations.ArmingChecksByTheirRules : Prop :=
  (∀ s : State,
     let m := s.recipe.shadow
     let p := s.stroke.latched
     let C := cellCount m
     let L := landingBase m
     let G := gridBase m
     let R := ringBaseField m
     let cap := ringCapacityField m
     let F := (C * Plan.stepCount p * 4 + 63) / 64 * 64
     let within : Nat → Nat → Nat → Prop := fun a b n => b ≤ a ∧ a < b + n
     let apart : Nat → Nat → Nat → Nat → Prop := fun b1 n1 b2 n2 => ∀ a, ¬ (within a b1 n1 ∧ within a b2 n2)
     let passes : Nat → Prop := fun n => s.checkFailure (.check n) = none
     (∀ n, 1 ≤ n → n ≤ 16 → s.checkFailure (.check n) = none ∨
       s.checkFailure (.check n) = some (if 6 ≤ n ∧ n ≤ 10 then .plan else .geometry, n)) ∧
     (passes 1 ↔ 1 ≤ C ∧ C ≤ 1024) ∧ (passes 2 ↔ L % 4096 = 0) ∧ (passes 3 ↔ G % 4096 = 0) ∧
     (passes 4 ↔ ∃ e, 4 ≤ e ∧ e ≤ 12 ∧ cap = 2 ^ e) ∧ (passes 5 ↔ R % (cap * 32) = 0) ∧
     (passes 6 ↔ 1 ≤ Plan.stepCount p ∧ Plan.stepCount p ≤ 512) ∧ (passes 7 ↔ ∃ n < 4, Plan.active p n = true) ∧
     (passes 8 ↔ Plan.armLimit p ≠ 0) ∧ (passes 9 ↔ Plan.stallLimit p ≠ 0) ∧
     (passes 10 ↔ Plan.haltThreshold p ≤ 1024) ∧ (passes 11 ↔ L + F ≤ 2 ^ 32) ∧ (passes 12 ↔ G + F ≤ 2 ^ 32) ∧
     (0 < F → 0 < cap →
       (passes 13 ↔ L = G ∨ apart L F G F) ∧
       (passes 14 ↔ apart L F s.regionBase 0x4000 ∧ apart L F R (cap * 32)) ∧
       (passes 15 ↔ apart G F s.regionBase 0x4000 ∧ apart G F R (cap * 32)) ∧
       (passes 16 ↔ apart R (cap * 32) s.regionBase 0x4000))) ∧
  (∀ (s : State) (n : Nat), n < 4 →
     let m := s.recipe.shadow
     (s.checkFailure (.slot n) = none ∨ s.checkFailure (.slot n) = some (.slot, n)) ∧
     (s.checkFailure (.slot n) = none ↔
       firstCell m n ≤ lastCell m n ∧ lastCell m n < cellCount m ∧ allowance m n ≤ 1024 ∧
       ∀ k < n, Plan.active s.stroke.latched k = true →
         ¬ (firstCell m n ≤ lastCell m k ∧ firstCell m k ≤ lastCell m n))) ∧
  (∀ (m : Memory) (n S : Nat),
     profileValid m n S = true ↔
       (1 ≤ zoneCount m n ∧ zoneCount m n ≤ 8) ∧
       (∀ z, 1 ≤ z → z ≤ zoneCount m n → firstStep m n z ≤ lastStep m n z) ∧
       (∀ z, 1 ≤ z → z ≤ zoneCount m n → (floorOf m n z).toNat ≤ (ceilingOf m n z).toNat) ∧
       (∀ z, 2 ≤ z → z ≤ zoneCount m n → lastStep m n (z - 1) < firstStep m n z) ∧
       lastStep m n (zoneCount m n) < S ∧
       (∀ z, 1 ≤ z → z ≤ zoneCount m n → zoneKind m n z = .entry → z = 1) ∧
       (∀ y z, 1 ≤ y → y < z → z ≤ zoneCount m n → ¬ (zoneKind m n y = .seat ∧ zoneKind m n z = .seat)) ∧
       (∀ z, 1 ≤ z → z ≤ zoneCount m n → zoneKind m n z = .hold →
         ∃ y, 1 ≤ y ∧ y < z ∧ zoneKind m n y = .seat)) ∧
  (∀ (s : State) (c : Nat),
     let n := pinProfile s.recipe.shadow c
     s.checkFailure (.pin c) =
       if profileValid s.recipe.shadow n (Plan.stepCount s.stroke.latched) then none else some (.profile, n)) ∧
  (∀ (m : Memory) (p : Plan) (w : WalkPosition) (k : Nat),
     let used : Nat → Prop := fun c => (∃ n < 4, Plan.active p n = true ∧ firstCell m n ≤ c ∧ c ≤ lastCell m n) ∧
       (pinMapWord m c).getLsbD 24 = true
     let slotsFrom : Prop := (w = .check 16 ∧ k = 0) ∨ ∃ n, w = .slot n ∧ k = n + 1
     let pinsFrom : Prop := (w = .check 16 ∧ k = 0 ∧ ∀ n < 4, Plan.active p n = false) ∨
       (k = 0 ∧ ∃ n, w = .slot n ∧ ∀ j, n < j → j < 4 → Plan.active p j = false) ∨ ∃ c, w = .pin c ∧ k = c + 1
     (w = .check k → k < 16 → w.after m p = .check (k + 1)) ∧
     (slotsFrom → ∀ n, k ≤ n → n < 4 → Plan.active p n = true → (∀ j, k ≤ j → j < n → Plan.active p j = false) →
       w.after m p = .slot n) ∧
     (pinsFrom → ∀ c, k ≤ c → c < 1024 → used c → (∀ d, k ≤ d → d < c → ¬ used d) → w.after m p = .pin c) ∧
     (pinsFrom → (∀ c, k ≤ c → c < 1024 → ¬ used c) → w.after m p = .finished))

/-- The end of the walk refuses with the first condition of R89 that holds, and leaves what R88 says untouched; with none of them the
arming succeeds, all in the one event (R26, R58, R90, R92, R108). That a pending plan is in ARMING after a refusal, also where the
REFUSAL enters an empty queue on a full ring and raises RING_WAIT from clear while enabled, is the model's reading (log 10, DEDUCED). -/
def Obligations.EndOfWalk : Prop :=
  (∀ s : State, s.stroke.state = .arming → s.stroke.walk = .finished → s.owedOk →
     let sumBad := s.recipe.sum ≠ Plan.word s.stroke.latched 4
     let thawed := (Plan.word s.stroke.latched 0).getLsbD 21 = true ∧
       (s.freezeEnvelopes = false ∨ s.freezeMap = false)
     let halted := s.lines.haltLatch = true ∨ s.lines.force = .forcedOn
     let press := s.lines.pressAbort = true
     let event := s.irqLine = true
     let refuses : RefusalReason → Prop := fun why => ∃ t, exec .armingWalkEnd s = .next t ∧
       t.refusals = s.refusals ++
         [{ strokeNumber := s.strokeNumber, reason := why, detailKind := .none, detailIndex := 0 }] ∧
       (s.stroke.pendingPlan = none → t.stroke.state = .idle) ∧
       (∀ q, s.stroke.pendingPlan = some q → t.stroke.state = .arming ∧ t.stroke.latched = q) ∧
       t.stroke.pendingPlan = none ∧ t.checker = s.checker ∧ t.remap = s.remap ∧ t.walker = s.walker ∧
       t.stroke.samplesTaken = s.stroke.samplesTaken ∧ t.stroke.stepsTaken = s.stroke.stepsTaken ∧
       t.stroke.outcome = s.stroke.outcome ∧ t.stroke.armTimer = s.stroke.armTimer
     (sumBad → refuses .checksum) ∧ (¬ sumBad → thawed → refuses .unfrozen) ∧
     (¬ sumBad → ¬ thawed → halted → refuses .halted) ∧
     (¬ sumBad → ¬ thawed → ¬ halted → press → refuses .pressNotReady) ∧
     (¬ sumBad → ¬ thawed → ¬ halted → ¬ press → event → refuses .eventPending)) ∧
  (∀ s : State, s.stroke.state = .arming → s.stroke.walk = .finished →
     s.recipe.sum = Plan.word s.stroke.latched 4 →
     ((Plan.word s.stroke.latched 0).getLsbD 21 = true → s.freezeEnvelopes = true ∧ s.freezeMap = true) →
     s.lines.haltLatch = false → s.lines.force ≠ .forcedOn → s.lines.pressAbort = false → s.irqLine = false →
     ∃ t, exec .armingWalkEnd s = .next t ∧
       t.stroke = { s.stroke with
         state := .armed
         samplesTaken := 0
         stepsTaken := 0
         outcome := none
         gridWriteError := false
         sumUsed := s.recipe.sum
         armTimer := some (Plan.armLimit s.stroke.latched * 1000) } ∧
       t.remap.sequence = 0 ∧
       t.remap.queue = s.remap.queue.map (fun e => { e with current := false }) ∧
       (∀ c < 1024,
         let used : Prop := (∃ n < 4, Plan.active s.stroke.latched n = true ∧ firstCell s.recipe.shadow n ≤ c ∧
             c ≤ lastCell s.recipe.shadow n) ∧ (pinMapWord s.recipe.shadow c).getLsbD 24 = true
         (used → t.pin c = PinContext.cleared .good) ∧ (¬ used → t.pin c = PinContext.cleared .unused)) ∧
       (∀ n, t.slotFailing n = 0) ∧ t.checker.totalFailing = 0 ∧
       (t.walker.state = .stopped ∧ t.walker.written = 0 ∧ t.walker.omitted = 0 ∧ t.walker.rejectMask = 0#4) ∧
       t.recipe = s.recipe ∧ t.writer = { s.writer with dirty := true } ∧ t.lines = s.lines ∧ t.arbiter = s.arbiter ∧
       (t.rdyLine = true ↔ (Plan.word s.stroke.latched 0).getLsbD 16 = false))


/-! ## The ends of a stroke and the closing walk -/


/-- The arm expiry ends an ARMED stroke EXPIRED on the zero-sample path: an INCONCLUSIVE SLOT_VERDICT for each active slot in ascending
order, then the STROKE_VERDICT (R92, R95, R102, R120). The stall expiry ends an ACQUIRING stroke STALLED and starts the closing walk at the
first cell of the lowest active slot (R93, R95, R102, R109). In both, a landing write that waited for room is dropped with STRAY (R62). -/
def Obligations.TimerExpiries : Prop :=
  (∀ s : State, s.stroke.state = .armed → s.stroke.armTimer ≠ none → s.stroke.samplesTaken = 0 →
     ∃ t, exec .armExpiry s = .next t ∧ t.stroke.outcome = some .expired ∧ t.stroke.armTimer = none ∧
       t.stroke.stallTimer = none ∧ t.rdyLine = false ∧ s.endedEmpty t .expired ∧ s.roomWaitDropped t ∧
       t.checker = s.checker ∧ t.remap = s.remap ∧ t.recipe = s.recipe) ∧
  (∀ s : State, s.stroke.state = .acquiring → s.stroke.stallTimer ≠ none → 0 < s.stroke.samplesTaken →
     (∃ n < 4, Plan.active s.stroke.latched n = true) →
     ∃ t, exec .stallExpiry s = .next t ∧ t.stroke.state = .closing ∧ t.stroke.outcome = some .stalled ∧
       t.stroke.armTimer = none ∧ t.stroke.stallTimer = none ∧ t.rdyLine = false ∧ s.walkBegun t ∧ s.roomWaitDropped t ∧
       t.writer.queue = s.writer.queue ∧ t.checker = s.checker ∧ t.remap = s.remap ∧ t.recipe = s.recipe)


/-- The pin of a step: the first cell at or after the cursor in the slot's range whose health is not UNUSED, and none when no such cell is
left (R109). The final check of a used pin: its progress and the stroke outcome decide it, and under COMPLETE the exit check of the zone
the pin is in: it adds nothing to a pin with an entry step held, or seated, or in a TRAVEL or HOLD zone; a fault it adds has the step count
as its step, and the failing counts rise by 1 when it makes a GOOD pin FAILED (R34, R48, R49, R111, R113). The step of a used pin: its
final check, then its PIN_RECORD queued, not due, omitted, or waited for (R110, R114, R122, R123). The step of a slot: its SLOT_VERDICT by
R116 and R117 with the reject mask, then the next active slot or the STROKE_VERDICT and REPORTING (R104, R109, R122). In both, RING_WAIT
where a record enters an empty queue on a full ring with the report writer free (R185). The fields of the records as they are composed: a
PIN_RECORD (R115), a SLOT_VERDICT with the number of the slot's used pins (R116, R117), a STROKE_VERDICT (R118). -/
def Obligations.ClosingWalkSteps : Prop :=
  (∀ (s : State) (n c : Nat) (o : StrokeOutcome),
     let m := s.recipe.shadow
     let x := s.pin c
     let number : BitVec 16 := (Plan.word s.stroke.latched 0).extractLsb' 0 16
     s.composePin n c =
       { strokeNumber := number, slot := n, cell := c, label := (m.readWord (0x1400 + 4 * c)).extractLsb' 0 16
         faults := x.faults, firstFault := x.firstFault, firstFaultStep := x.firstFaultStep
         entryStep := x.entryStep, seatStep := x.seatStep, peakForce := x.peakForce, peakStep := x.peakStep
         zoneReached := x.zoneIndex, samplesChecked := x.samplesChecked } ∧
     s.composeSlot n =
       { strokeNumber := number, slot := n, connectorCode := connectorCode m n
         outcome := if allowance m n < s.slotFailing n then .reject
           else if s.stroke.outcome = some .complete then .accept else .inconclusive
         pinsChecked := s.pinsChecked n, pinsFailing := s.slotFailing n, allowance := allowance m n } ∧
     s.pinsChecked n = ((List.range 1024).filter fun d =>
       decide (firstCell m n ≤ d) && decide (d ≤ lastCell m n) && (s.pin d).health != .unused).length ∧
     s.composeStroke o =
       { strokeNumber := number, outcome := o, stepsTaken := s.stroke.stepsTaken, samplesTaken := s.stroke.samplesTaken
         totalFailing := s.checker.totalFailing, gridWriteError := s.stroke.gridWriteError
         sumUsed := s.stroke.sumUsed, rejectMask := s.walker.rejectMask }) ∧
  (∀ s : State,
     let left : Nat → Prop := fun c => firstCell s.recipe.shadow s.walker.cursorSlot ≤ c ∧ s.walker.cursorCell ≤ c ∧
       c ≤ lastCell s.recipe.shadow s.walker.cursorSlot ∧ (s.pin c).health ≠ .unused
     (∀ c, s.nextPin = some c ↔ left c ∧ ∀ d < c, ¬ left d) ∧ (s.nextPin = none ↔ ∀ c, ¬ left c)) ∧
  (∀ (s : State) (c : Nat) (o : StrokeOutcome), s.stroke.outcome = some o → c < 1024 →
     let x := s.pin c
     let n := pinProfile s.recipe.shadow c
     let step := Plan.stepCount s.stroke.latched
     let t := s.finalCheck c
     (x.progress = .frozen ∨ x.progress = .after → t = s) ∧
     (o ≠ .complete → x.progress ≠ .frozen → x.progress ≠ .after → t.pin c = x.addFault .incomplete step) ∧
     (o = .complete → x.progress = .inZone →
       (zoneKind s.recipe.shadow n x.zoneIndex = .entry → x.entryStep = none → t.pin c = x.addFault .noEntry step) ∧
       (zoneKind s.recipe.shadow n x.zoneIndex = .entry → x.entryStep ≠ none → t = s) ∧
       (zoneKind s.recipe.shadow n x.zoneIndex = .seat → x.seated = false → t.pin c = x.addFault .notSeated step) ∧
       (zoneKind s.recipe.shadow n x.zoneIndex = .seat → x.seated = true → t = s) ∧
       (zoneKind s.recipe.shadow n x.zoneIndex = .travel ∨ zoneKind s.recipe.shadow n x.zoneIndex = .hold → t = s)) ∧
     (∀ c', c' ≠ c → t.pin c' = s.pin c') ∧ t.lines = s.lines ∧ t.stroke = s.stroke ∧
     (let fails := x.health = .good ∧ (t.pin c).health = .failed
      (¬ fails → t.checker.totalFailing = s.checker.totalFailing ∧ ∀ k, t.slotFailing k = s.slotFailing k) ∧
      (∀ k < 4, fails → Plan.active s.stroke.latched k = true → firstCell s.recipe.shadow k ≤ c →
        c ≤ lastCell s.recipe.shadow k →
        (∀ j < k, Plan.active s.stroke.latched j = true →
          c < firstCell s.recipe.shadow j ∨ lastCell s.recipe.shadow j < c) →
        t.checker.totalFailing = s.checker.totalFailing + 1 ∧ t.slotFailing k = s.slotFailing k + 1 ∧
          ∀ j, j ≠ k → t.slotFailing j = s.slotFailing j))) ∧
  (∀ (s : State) (c : Nat), s.stroke.state = .closing → s.walker.state = .walking → s.nextPin = some c →
     let u := s.finalCheck c
     let due : Prop := (Plan.word s.stroke.latched 0).getLsbD 19 = true ∨ (u.pin c).faults ≠ 0#9
     let room : Prop := s.entries Record.general < 14
     let gives : Prop := (Plan.word s.stroke.latched 0).getLsbD 20 = true ∧ s.ringFull = true
     ∃ t, exec .closingWalkStep s = .next t ∧ t.checker = u.checker ∧ t.stroke = s.stroke ∧ t.recipe = s.recipe ∧
       t.remap = s.remap ∧ t.arbiter = s.arbiter ∧ t.walker.cursorSlot = s.walker.cursorSlot ∧
       t.walker.rejectMask = s.walker.rejectMask ∧ t.walker.written = s.walker.written ∧
       (¬ due → t.records = s.records ∧ t.walker.state = .walking ∧ t.walker.cursorCell = c + 1 ∧
         t.walker.omitted = s.walker.omitted) ∧
       t.lines = (if s.writer.queue = [] ∧ due ∧ room ∧ s.ringFull = true ∧ s.writerBusy = false then
         { s.lines with flags := s.lines.flags ||| 0x20#9 } else s.lines) ∧
       (due → room → t.records = s.records ++ [.pin (u.composePin s.walker.cursorSlot c)] ∧
         t.walker.state = .walking ∧ t.walker.cursorCell = c + 1 ∧ t.walker.omitted = s.walker.omitted) ∧
       (due → ¬ room → gives → t.records = s.records ∧ t.walker.state = .walking ∧ t.walker.cursorCell = c + 1 ∧
         t.walker.omitted = s.walker.omitted + 1) ∧
       (due → ¬ room → ¬ gives → t.records = s.records ∧ t.walker.state = .paused ∧
         t.walker.held = some .pinRecord ∧ t.walker.cursorCell = c ∧ t.walker.omitted = s.walker.omitted)) ∧
  (∀ (s : State) (o : StrokeOutcome), s.stroke.state = .closing → s.walker.state = .walking → s.nextPin = none →
     s.stroke.outcome = some o → s.walker.cursorSlot < 4 →
     let n := s.walker.cursorSlot
     let failing := s.slotFailing n
     let allowed := allowance s.recipe.shadow n
     let outcome : SlotOutcome :=
       if allowed < failing then .reject else if o = .complete then .accept else .inconclusive
     let verdict : SlotVerdict :=
       { strokeNumber := s.strokeNumber
         slot := n
         connectorCode := connectorCode s.recipe.shadow n
         outcome := outcome
         pinsChecked := s.pinsChecked n
         pinsFailing := failing
         allowance := allowed }
     let last : Prop := ∀ k, n < k → k < 4 → Plan.active s.stroke.latched k = false
     ∃ t, exec .closingWalkStep s = .next t ∧ t.checker = s.checker ∧ t.remap = s.remap ∧ t.recipe = s.recipe ∧
       t.lines = (if s.writer.queue = [] ∧ s.ringFull = true ∧ s.writerBusy = false then
         { s.lines with flags := s.lines.flags ||| 0x20#9 } else s.lines) ∧
       (¬ s.entries Record.general < 14 → t.walker.state = .paused ∧ t.walker.held = some .slotVerdict ∧
         t.records = s.records ∧ t.stroke = s.stroke) ∧
       (s.entries Record.general < 14 →
         (∀ k < 4, t.walker.rejectMask.getLsbD k =
           (s.walker.rejectMask.getLsbD k || (k == n && outcome == .reject))) ∧
         (¬ last → t.records = s.records ++ [.slot verdict] ∧ t.walker.state = .walking ∧ t.stroke = s.stroke ∧
           n < t.walker.cursorSlot ∧ t.walker.cursorSlot < 4 ∧
           Plan.active s.stroke.latched t.walker.cursorSlot = true ∧
           (∀ k, n < k → k < t.walker.cursorSlot → Plan.active s.stroke.latched k = false) ∧
           t.walker.cursorCell = firstCell s.recipe.shadow t.walker.cursorSlot) ∧
         (last → t.walker.state = .stopped ∧ t.stroke.state = .reporting ∧ t.stroke.outcome = some o ∧
           t.records = s.records ++ [.slot verdict,
             .stroke { s.composeStroke o with rejectMask := t.walker.rejectMask }])))


/-! ## Port M -/


/-- The winner of a grant: the high-water rule, else the first ready claimant after the pointer; no grant at 4 outstanding or with none
ready (R190 to R192). When each claimant is ready: a port with a request taken and not issued, the remap queue with an entry not issued,
the report writer during LOADING with reads left, and after it, with no write of its own outstanding, with a record whose turn it is and
that does not meet the control region, or with the status block in its turn (R183, R184, R187, R190). That the report writer is not
ready while the record whose turn it is meets the region, even with the status block dirty, is the model's reading (log 18, DEDUCED),
and so is the reduction of each of the record's 32 byte addresses to 32 bits (log 20, DEDUCED). -/
def Obligations.GrantWinner : Prop :=
  ∀ s : State,
    (4 ≤ s.arbiter.inflight.length → exec .memoryGrant s = .next s) ∧
    (s.winner = none → exec .memoryGrant s = .next s) ∧
    (∀ p c, (p = .a ∧ c = Claimant.portA) ∨ (p = .s ∧ c = Claimant.portS) →
      (s.ready c = true ↔
        ∃ r, (s.port p).status = .outstanding r false ∨ (s.port p).status = .abandoned r false)) ∧
    (s.ready .remap = true ↔ ∃ e ∈ s.remap.queue, e.issued = false) ∧
    (s.stroke.state = .loading → (s.ready .report = true ↔ s.writer.loadIssued < 145)) ∧
    (s.stroke.state ≠ .loading →
      let recordsTurn : Prop := s.writer.queue ≠ [] ∧ (s.writer.producer + 1) % s.ringCapacity ≠ s.writer.consumer ∧
        ¬ (s.writer.dirty = true ∧ s.writer.lastIssued = .record)
      let meets : Prop := ∃ i < 32,
        (let a := (ringBaseField s.recipe.shadow + s.writer.producer * 32 + i) % 2 ^ 32
         s.regionBase ≤ a ∧ a < s.regionBase + 0x4000)
      (s.ready .report = true ↔
        (∀ x ∈ s.arbiter.inflight, x.kind ≠ .record ∧ x.kind ≠ .status) ∧
          ((recordsTurn ∧ ¬ meets) ∨ (¬ recordsTurn ∧ s.writer.dirty = true)))) ∧
    (48 ≤ s.remap.queue.length → s.ready .remap = true → s.winner = some .remap) ∧
    ((s.remap.queue.length < 48 ∨ s.ready .remap = false) →
      let order : List Claimant := [.portA, .portS, .remap, .report]
      ∀ i : Fin 4, s.arbiter.pointer = order[i] →
        ∀ w, s.winner = some w ↔ ∃ d : Fin 4, order[(i.val + 1 + d.val) % 4]? = some w ∧ s.ready w = true ∧
          ∀ (e : Fin 4) (v : Claimant), e < d → order[(i.val + 1 + e.val) % 4]? = some v → s.ready v = false)


/-- A granted pass-through claimant issues its request as it stands, from an OUTSTANDING or an ABANDONED port (R175, R179, R190). A granted
remap queue issues its oldest unissued beat as a single-word write at its grid address, all byte enables set; the entry keeps its
place (R61, R190). -/
def Obligations.GrantIssuesTraffic : Prop :=
  (∀ (s : State) (p : PortId) (r : Request) (c : Claimant), (p = .a ∧ c = .portA) ∨ (p = .s ∧ c = .portS) →
     s.arbiter.inflight.length < 4 → s.winner = some c →
     let tx : Transaction := { kind := .passThrough p, request := r, discard := false, advances := true }
     let arb : ArbiterBlock := { pointer := c, inflight := s.arbiter.inflight ++ [tx] }
     ((s.port p).status = .outstanding r false →
       exec .memoryGrant s = .next ({ s with arbiter := arb }.setPort p { s.port p with status := .outstanding r true })) ∧
     ((s.port p).status = .abandoned r false →
       exec .memoryGrant s = .next ({ s with arbiter := arb }.setPort p { s.port p with status := .abandoned r true }))) ∧
  (∀ (s : State) (front back : List RemapEntry) (e : RemapEntry), s.arbiter.inflight.length < 4 →
     s.winner = some .remap → s.remap.queue = front ++ e :: back → (∀ x ∈ front, x.issued = true) → e.issued = false →
     exec .memoryGrant s = .next { s with
       remap := { s.remap with queue := front ++ { e with issued := true } :: back }
       arbiter := { pointer := .remap, inflight := s.arbiter.inflight ++
         [{ kind := .remapBeat
            request := .write { addr := e.addr, beats := [{ data := e.data, enable := 0xF#4 }] }
            discard := false
            advances := true }] } })

/-- A granted report writer: after LOADING the head record when it can be written and the status block has not its turn, else the dirty
status block (R183, R187, R190); during LOADING the next of the 145 load reads, in ascending address order (R156, R190). -/
def Obligations.GrantIssuesReports : Prop :=
  (∀ s : State, s.arbiter.inflight.length < 4 → s.winner = some .report → s.stroke.state ≠ .loading →
     let tx : TransactionKind → Word → List Word → Transaction := fun k a ws =>
       { kind := k
         request := .write { addr := a, beats := ws.map fun d => { data := d, enable := 0xF#4 } }
         discard := false
         advances := true }
     (∀ e es, s.writer.queue = e :: es → s.ringFull = false → ¬ (s.writer.dirty = true ∧ s.writer.lastIssued = .record) →
       exec .memoryGrant s = .next { s with
         writer := { s.writer with queue := { e with issued := true } :: es, lastIssued := .record }
         walker := { s.walker with written := s.walker.written + if e.record.isPin then 1 else 0 }
         arbiter := { pointer := .report, inflight := s.arbiter.inflight ++
           [tx .record (toAddr (ringBaseField s.recipe.shadow + s.writer.producer * 32))
             (e.record.words s.writer.lap s.walker.written s.walker.omitted)] } }) ∧
     (s.writer.dirty = true →
       (s.writer.queue = [] ∨ s.ringFull = true ∨ s.writer.lastIssued = .record) →
       exec .memoryGrant s = .next { s with
         writer := { s.writer with dirty := false, lastIssued := .status }
         arbiter := { pointer := .report, inflight := s.arbiter.inflight ++
           [tx .status (toAddr (s.regionBase + 0x2480)) s.statusWords] } })) ∧
  (∀ s : State, s.arbiter.inflight.length < 4 → s.winner = some .report → s.stroke.state = .loading →
     s.writer.loadIssued < 145 ∧
     exec .memoryGrant s = .next { s with
       writer := { s.writer with loadIssued := s.writer.loadIssued + 1 }
       arbiter := { pointer := .report, inflight := s.arbiter.inflight ++
         [{ kind := .loadRead s.writer.loadIssued
            request := .read (toAddr (s.regionBase + 64 * s.writer.loadIssued)) 16
            discard := false
            advances := true }] } })

/-- Every bit of the eight words of a record, all four kinds, as numbers: the header and the fields at their positions, the rest 0, with
the codes of R151 and R152 (R145, R151, R152). Every bit of the sixteen words of the status block (R150). Where the model reads the
fields of the recipe and of the plan: little-endian words (R145), the geometry and slot records (R146), the profiles (R147), the pin map
(R148), the plan record (R149). The grid word keeps the low 24 bits as sent and carries the tag in its top byte (R47, R67, R145). -/
def Obligations.FormatLayouts : Prop :=
  (∀ (r : Record) (lap : Bool) (written omitted : Nat), ∃ w : Fin 8 → Word,
     r.words lap written omitted = List.ofFn w ∧
     (let step : Option Nat → Nat := fun o => match o with | none => 0xFFFF | some n => n
      (w 0).toNat = (match r with | .pin _ => 1 | .slot _ => 2 | .stroke _ => 3 | .refusal _ => 4) + 128 * lap.toNat +
        65536 * r.strokeNumber.toNat ∧
      (∀ x : RefusalRecord, r = .refusal x → x.detailIndex < 65536 →
        (w 1).toNat = x.reason.code + 256 * x.detailKind.code + 65536 * x.detailIndex ∧
        ∀ i : Fin 8, 2 ≤ i.val → w i = 0#32) ∧
      (∀ x : StrokeVerdict, r = .stroke x → x.stepsTaken < 65536 → x.samplesTaken < 2 ^ 32 → x.totalFailing < 65536 →
        (w 1).toNat = x.outcome.code + 256 * x.rejectMask.toNat + 65536 * x.gridWriteError.toNat ∧
        (w 2).toNat = x.stepsTaken ∧ (w 3).toNat = x.samplesTaken ∧ (w 4).toNat = x.totalFailing ∧
        (w 5).toNat = written % 65536 + 65536 * (omitted % 65536) ∧ w 6 = x.sumUsed ∧ w 7 = 0#32) ∧
      (∀ x : SlotVerdict, r = .slot x → x.slot < 4 → x.pinsChecked < 65536 → x.pinsFailing < 65536 →
        x.allowance < 65536 →
        (w 1).toNat = x.slot + 256 * x.outcome.code + 65536 * x.connectorCode.toNat ∧
        (w 2).toNat = x.pinsChecked + 65536 * x.pinsFailing ∧ (w 3).toNat = x.allowance ∧
        ∀ i : Fin 8, 4 ≤ i.val → w i = 0#32) ∧
      (∀ x : PinRecord, r = .pin x → x.slot < 4 → x.cell < 1024 → x.zoneReached < 16 → x.samplesChecked < 65536 →
        step x.firstFaultStep < 65536 → step x.entryStep < 65536 → step x.seatStep < 65536 → step x.peakStep < 65536 →
        (w 1).toNat = x.slot + 65536 * x.cell ∧ (w 2).toNat = x.label.toNat + 65536 * x.zoneReached ∧
        (w 3).toNat = x.faults.toNat + 65536 * (match x.firstFault with | none => 0 | some k => k.code) ∧
        (w 4).toNat = step x.firstFaultStep + 65536 * x.samplesChecked ∧
        (w 5).toNat = step x.entryStep + 65536 * step x.seatStep ∧
        (w 6).toNat = x.peakForce.toNat + 65536 * step x.peakStep ∧ w 7 = 0#32))) ∧
  (List.map StrokeOutcome.code [.complete, .expired, .stalled, .halted, .pressStopped, .aborted, .recipeChanged] =
      [1, 2, 3, 4, 5, 6, 7] ∧
    List.map SlotOutcome.code [.accept, .reject, .inconclusive] = [1, 2, 3] ∧
    List.map RefusalReason.code [.parameter, .checksum, .unfrozen, .eventPending, .halted, .pressNotReady, .abandoned,
      .superseded] = [1, 2, 3, 4, 5, 6, 7, 8] ∧
    List.map DetailKind.code [.none, .geometry, .plan, .slot, .profile] = [0, 1, 2, 3, 4] ∧
    List.map FaultKind.code [.noEntry, .lowForce, .highForce, .collapse, .notSeated, .overforce, .overrange, .cellFault,
      .incomplete] = [1, 2, 3, 4, 5, 6, 7, 8, 9] ∧
    List.map StrokeState.code [.loading, .idle, .arming, .armed, .acquiring, .closing, .reporting] =
      [0, 1, 2, 3, 4, 5, 6] ∧
    List.map ForceState.code [.none, .forcedOn, .forcedOff] = [0, 1, 2] ∧
    List.map CommandResult.code [.none, .done, .busy, .prot, .notEmpty, .unknown] = [0, 1, 2, 3, 4, 5]) ∧
  (∀ s : State, s.writer.producer < 4096 → s.writer.consumer < 4096 → ∃ w : Fin 16 → Word,
     s.statusWords = List.ofFn w ∧
     (s.stroke.pendingPlan = none → (w 0).toNat = s.stroke.state.code) ∧
     (∀ p, s.stroke.pendingPlan = some p →
       (w 0).toNat = s.stroke.state.code + 256 + 65536 * (Plan.strokeNumber p).toNat) ∧
     (w 1).toNat = (Plan.strokeNumber s.stroke.latched).toNat ∧
     (w 2).toNat = s.protection.toNat + 256 * s.lines.haltLatch.toNat + 65536 * s.lines.force.code ∧
     (w 3).toNat = s.lines.flags.toNat ∧ (w 4).toNat = s.lines.enables.toNat ∧
     (w 5).toNat = s.writer.producer + 65536 * s.writer.lap.toNat ∧ (w 6).toNat = s.writer.consumer ∧
     w 7 = s.writer.cmdCode ∧ (w 8).toNat = s.writer.cmdResult.code ∧ w 9 = s.lines.firstRefused ∧
     w 10 = s.writer.memErrAddr ∧ w 11 = s.recipe.sum ∧ ∀ i : Fin 16, 12 ≤ i.val → w i = 0#32) ∧
  (∀ (m : Memory) (n z c : Nat), 1 ≤ z →
     let bits : Nat → Nat → Nat → Nat := fun a lo len => (m.readWord a).toNat / 2 ^ lo % 2 ^ len
     let slot := 0x40 + 0x10 * n
     let profile := 0x100 + 0x90 * n
     let zone := profile + 0x10 * z
     let pin := 0x1400 + 4 * c
     (m.readWord c).toNat = (m.readByte c).toNat + 2 ^ 8 * (m.readByte (c + 1)).toNat +
       2 ^ 16 * (m.readByte (c + 2)).toNat + 2 ^ 24 * (m.readByte (c + 3)).toNat ∧
     (cellCount m = bits 0 0 32 ∧ landingBase m = bits 4 0 32 ∧ gridBase m = bits 8 0 32 ∧
       ringBaseField m = bits 0xC 0 32 ∧ ringCapacityField m = bits 0x10 0 32) ∧
     (firstCell m n = bits slot 0 10 ∧ lastCell m n = bits slot 16 10 ∧ (connectorCode m n).toNat = bits (slot + 4) 0 16 ∧
       allowance m n = bits (slot + 4) 16 11 ∧ (haltOnHalting m n = true ↔ bits (slot + 8) 0 1 = 1)) ∧
     (zoneCount m n = bits profile 0 8 ∧ (dropLimit m n).toNat = bits (profile + 4) 0 16 ∧
       (absoluteLimit m n).toNat = bits (profile + 4) 16 16) ∧
     ((zoneKind m n z = .entry ↔ bits zone 0 2 = 0) ∧ (zoneKind m n z = .travel ↔ bits zone 0 2 = 1) ∧
       (zoneKind m n z = .seat ↔ bits zone 0 2 = 2) ∧ (zoneKind m n z = .hold ↔ bits zone 0 2 = 3) ∧
       (forgiving m n z = true ↔ bits zone 8 1 = 1) ∧ tolerance m n z = bits zone 16 8 ∧
       firstStep m n z = bits (zone + 4) 0 16 ∧ lastStep m n z = bits (zone + 4) 16 16 ∧
       (floorOf m n z).toNat = bits (zone + 8) 0 16 ∧ (ceilingOf m n z).toNat = bits (zone + 8) 16 16) ∧
     ((pinLabel m c).toNat = bits pin 0 16 ∧ pinProfile m c = bits pin 16 5 ∧
       (pinChecked m c = true ↔ bits pin 24 1 = 1))) ∧
  (∀ (p : Plan) (n : Nat), n < 4 →
     let bits : Fin 8 → Nat → Nat → Nat := fun i lo len => (p[i]).toNat / 2 ^ lo % 2 ^ len
     (Plan.strokeNumber p).toNat = bits 0 0 16 ∧ Plan.source p = (if bits 0 16 1 = 1 then .s else .a) ∧
     (Plan.cellMajor p = true ↔ bits 0 17 1 = 1) ∧ (Plan.reversed p = true ↔ bits 0 18 1 = 1) ∧
     (Plan.allPins p = true ↔ bits 0 19 1 = 1) ∧ (Plan.omitPolicy p = true ↔ bits 0 20 1 = 1) ∧
     (Plan.requireFreeze p = true ↔ bits 0 21 1 = 1) ∧ Plan.stepCount p = bits 1 0 16 ∧
     (Plan.active p n = true ↔ bits 1 (16 + n) 1 = 1) ∧ Plan.armLimit p = bits 2 0 16 ∧
     Plan.stallLimit p = bits 2 16 16 ∧ Plan.haltThreshold p = bits 3 0 16 ∧ (Plan.expectedSum p).toNat = bits 4 0 32) ∧
  (∀ (w : Word) (t : Tag), t.zone < 16 →
     (stamp w t).extractLsb' 0 24 = w.extractLsb' 0 24 ∧ ((stamp w t).extractLsb' 24 4).toNat = t.zone ∧
     ((stamp w t).extractLsb' 28 2).toNat =
       (match t.band with | .notChecked => 0 | .inBand => 1 | .below => 2 | .above => 3) ∧
     (stamp w t).getLsbD 30 = t.mark ∧ (stamp w t).getLsbD 31 = t.newFault)


/-- Memory's answer to a pass-through transaction: given by an OUTSTANDING port, discarded by an ABANDONED one; the port becomes FREE (R171,
R172, R175, R192). Memory's answer to a grid write: the oldest entry leaves; an ERROR raises MEMERR, keeps the address, and sets the
stroke's grid-write-error flag when the beat belongs to the current stroke; after a warm reset it only frees its place (R61, R194,
R195). In ARMING, a MEMERR raised from clear while enabled abandons the arming (R91, R138; the pending plan is started whatever RING_WAIT
does in that event: log 10, DEDUCED). The wait of a plain request that met that entry alone ends in the same event, and it is taken
(R193). In general, after the answer's own effect, the waits for room and on queued beats end at port A and then at port S: that the wait
for room ends in this event, and not in a step of its own, is the model's reading of R62 (log 3, DEDUCED), and the order of the ports is its
choice (log 24, DESIGN CHOICE). -/
def Obligations.AnswersToTraffic : Prop :=
  (∀ (s : State) (x : Transaction) (rest : List Transaction) (p : PortId) (okay : Bool) (data : LineData),
     s.arbiter.inflight = x :: rest → x.kind = .passThrough p →
     let u : State := { s with arbiter := { s.arbiter with inflight := rest } }
     (∀ a n i, (s.port p).status = .outstanding (.read a n) i →
       exec (.passThroughAnswer okay data) s = .next (u.setPort p { s.port p with
         status := .free
         answer := some (if okay then .readData (data.toList.take n) true
           else .readData (List.replicate n 0#32) false) })) ∧
     (∀ w i, (s.port p).status = .outstanding (.write w) i →
       exec (.passThroughAnswer okay data) s = .next (u.setPort p { s.port p with
         status := .free, answer := some (if okay then .done else .error) })) ∧
     (∀ r i, (s.port p).status = .abandoned r i →
       exec (.passThroughAnswer okay data) s = .next (u.setPort p { s.port p with status := .free }))) ∧
  (∀ (s : State) (x : Transaction) (rest : List Transaction) (e : RemapEntry) (es : List RemapEntry),
     s.arbiter.inflight = x :: rest → x.kind = .remapBeat →
     let u : State := { s with arbiter := { s.arbiter with inflight := rest } }
     (x.discard = true → ∀ okay, exec (.gridWriteAnswer okay) s = .next u) ∧
     let noWait : PortId → Prop := fun p => s.waitingFor p .room = none ∧ s.waitingFor p .hazard = none
     let popped : State := { u with remap := { s.remap with queue := es } }
     let noticed : Prop := s.stroke.state = .arming ∧ s.flagSet .memerr = false ∧ s.lines.enables.getLsbD 7 = true
     (x.discard = false → s.remap.queue = e :: es → noWait .a → noWait .s →
       exec (.gridWriteAnswer true) s = .next popped ∧
       (¬ noticed → exec (.gridWriteAnswer false) s = .next { popped with
         writer := { s.writer with memErrAddr := e.addr, dirty := true }
         lines := { s.lines with flags := s.lines.flags ||| 0x80#9 }
         stroke := { s.stroke with gridWriteError := s.stroke.gridWriteError || e.current } }) ∧
       (noticed → s.owedOk → ∃ t, exec (.gridWriteAnswer false) s = .next t ∧ s.abandonedTo t ∧
         t.flagSet .memerr = true ∧ t.writer.memErrAddr = e.addr ∧ t.remap = popped.remap ∧
         t.stroke.gridWriteError = (s.stroke.gridWriteError || e.current))) ∧
     (∀ (p : PortId) (r : Request), x.discard = false → s.remap.queue = e :: es →
       (s.port p).status = .waiting r .hazard → noWait (PortId.other p) → s.inRegion r.addr.toNat = false →
       (∀ w, r = .write w → s.inLanding w.addr.toNat = false) →
       ((∀ j < r.count, ∀ y ∈ es, y.addr ≠ toAddr (r.addr.toNat + 4 * j)) →
         exec (.gridWriteAnswer true) s = .next (popped.setPort p { s.port p with status := .outstanding r false })) ∧
       ((∃ j < r.count, ∃ y ∈ es, y.addr = toAddr (r.addr.toNat + 4 * j)) →
         exec (.gridWriteAnswer true) s = .next popped)) ∧
     (∀ (okay : Bool) (t t1 t2 t3 t4 : State), x.discard = false →
       exec (.gridWriteAnswer okay) ((s.freePort .a).freePort .s) = .next t →
       exec (.waitingLandingWriteTaken .a) ((t.setPort .a s.portA).setPort .s s.portS) = .next t1 →
       exec (.hazardWaitEnd .a) t1 = .next t2 → exec (.waitingLandingWriteTaken .s) t2 = .next t3 →
       exec (.hazardWaitEnd .s) t3 = .next t4 → exec (.gridWriteAnswer okay) s = .next t4))


/-- The completion of a record write: the entry is freed, the producer goes on and the lap bit flips at 0, the record's flag is
raised, and an ERROR is kept as well (R183, R184, R188). A head record that then finds the ring full raises RING_WAIT, once (R185). In
ARMING, a flag that the completion raises from clear while enabled abandons the arming, and with none the arming goes on (R91, R138; one
abandonment, whatever flags rise together: log 9, DEDUCED). An arming request that waits for the entry of a REFUSAL is the matter of
ArmWaitsForTheRefusalEntry; with the flags first, it is what follows the completion. -/
def Obligations.RecordWriteCompletes : Prop :=
  (∀ (s : State) (x : Transaction) (rest : List Transaction) (e : ReportEntry) (es : List ReportEntry) (okay first : Bool),
    s.arbiter.inflight = x :: rest → x.kind = .record → x.discard = false → s.writer.queue = e :: es →
    (e.record.isRefusal = true → s.waitingFor .s .refusalEntry = none) →
    let next := (s.writer.producer + 1) % s.ringCapacity
    let producer := if x.advances then next else s.writer.producer
    let waits : Prop := (es ≠ [] ∨ s.stroke.owed ≠ []) ∧ (∀ y ∈ rest, y.kind.ofWriter = false) ∧
      (producer + 1) % s.ringCapacity = s.writer.consumer
    ∃ t, exec (.recordWriteComplete okay first) s = .next t ∧ t.arbiter.inflight = rest ∧ t.writer.dirty = true ∧
      (x.advances = true → t.writer.producer = next ∧
        t.writer.lap = if next = 0 then !s.writer.lap else s.writer.lap) ∧
      (x.advances = false → t.writer.producer = s.writer.producer ∧ t.writer.lap = s.writer.lap) ∧
      t.writer.consumer = s.writer.consumer ∧ t.recipe = s.recipe ∧ t.remap = s.remap ∧ t.checker = s.checker ∧
      t.protection = s.protection ∧ t.walker.written = s.walker.written ∧
      ((∃ v, e.record = .stroke v) → t.flagSet .verdict = true) ∧
      ((∃ v, e.record = .refusal v) → t.flagSet .refusal = true) ∧
      (okay = false → t.flagSet .memerr = true ∧ t.writer.memErrAddr = x.request.addr) ∧
      (okay = true → t.writer.memErrAddr = s.writer.memErrAddr) ∧
      (s.walker.state ≠ .paused → waits → t.flagSet .ringWait = true) ∧
      ((¬ ∃ v, e.record = .stroke v) → s.stroke.state ≠ .arming → s.walker.state ≠ .paused → ¬ waits →
        t.flagSet .ringWait = s.flagSet .ringWait) ∧
      ((¬ ∃ v, e.record = .stroke v) → s.stroke.state ≠ .arming → s.walker.state ≠ .paused → s.stroke.owed = [] →
        t.writer.queue = es ∧ t.stroke = s.stroke) ∧
      ((¬ ∃ v, e.record = .stroke v) → s.stroke.state = .arming → s.walker.state ≠ .paused → s.owedOk →
        (let rises : Prop :=
           ((∃ v, e.record = .refusal v) ∧ s.flagSet .refusal = false ∧ s.lines.enables.getLsbD 1 = true) ∨
           (okay = false ∧ s.flagSet .memerr = false ∧ s.lines.enables.getLsbD 7 = true) ∨
           (waits ∧ s.flagSet .ringWait = false ∧ s.lines.enables.getLsbD 5 = true)
         (rises → State.abandonedTo { s with writer := { s.writer with queue := es } } t) ∧
         (¬ rises → t.stroke.state = .arming ∧ t.stroke.latched = s.stroke.latched ∧ t.stroke.walk = s.stroke.walk ∧
           t.stroke.pendingPlan = s.stroke.pendingPlan)))) ∧
  (∀ (s t : State) (x : Transaction) (rest : List Transaction) (e : ReportEntry) (es : List ReportEntry) (okay : Bool),
    s.arbiter.inflight = x :: rest → x.kind = .record → x.discard = false → s.writer.queue = e :: es →
    e.record.isRefusal = true → exec (.recordWriteComplete okay true) (s.freePort .s) = .next t →
    exec (.recordWriteComplete okay true) s = exec .armWaitEnd (t.setPort .s s.portS))


/-- What the freed entry of a completed record takes: a PAUSED walk's PIN_RECORD or SLOT_VERDICT, or the oldest owed refusal (R87, R122); a
PAUSED walk omits its PIN_RECORD when the ring fills under OMIT and no general entry was freed, and stays PAUSED otherwise (R122, R123).
REPORTING ends with the completion of the STROKE_VERDICT's write: to IDLE, or to ARMING with a pending plan when VERDICT is raised before
the walk begins; with VERDICT enabled and raised from clear after it has begun, the arming is abandoned (R86, R91, R106). Which of the
two comes first is the operand's (log 4, DESIGN CHOICE); that with the flags first ARMING stands also where MEMERR or RING_WAIT rises
while enabled in the same event is the model's reading (log 9, DEDUCED). -/
def Obligations.CompletionConsequences : Prop :=
  (∀ (s : State) (x : Transaction) (rest : List Transaction) (e : ReportEntry) (es : List ReportEntry) (okay first : Bool),
     s.arbiter.inflight = x :: rest → x.kind = .record → x.discard = false → s.writer.queue = e :: es →
     s.stroke.state = .closing → (¬ ∃ v, e.record = .stroke v) →
     (e.record.isRefusal = true → s.waitingFor .s .refusalEntry = none) →
     let room : Prop := (es.filter fun y => y.record.general).length < 14
     let next := (s.writer.producer + 1) % s.ringCapacity
     let gives : Prop := (Plan.word s.stroke.latched 0).getLsbD 20 = true ∧ x.advances = true ∧
       (next + 1) % s.ringCapacity = s.writer.consumer
     (s.walker.state = .paused → s.walker.held = some .pinRecord → s.stroke.owed = [] → room →
       ∃ t, exec (.recordWriteComplete okay first) s = .next t ∧ t.walker.state = .walking ∧
         t.walker.cursorCell = s.walker.cursorCell + 1 ∧
         t.records = es.map ReportEntry.record ++ [.pin (s.composePin s.walker.cursorSlot s.walker.cursorCell)]) ∧
     (∀ o, s.walker.state = .paused → s.walker.held = some .slotVerdict → s.stroke.owed = [] → room →
       s.stroke.outcome = some o → s.walker.cursorSlot < 4 →
       let n := s.walker.cursorSlot
       let verdict := s.composeSlot n
       let last : Prop := ∀ k, n < k → k < 4 → Plan.active s.stroke.latched k = false
       ∃ t, exec (.recordWriteComplete okay first) s = .next t ∧
         (∀ k < 4, t.walker.rejectMask.getLsbD k =
           (s.walker.rejectMask.getLsbD k || (k == n && verdict.outcome == .reject))) ∧
         (¬ last → t.records = es.map ReportEntry.record ++ [.slot verdict] ∧ t.walker.state = .walking ∧
           n < t.walker.cursorSlot ∧ t.walker.cursorSlot < 4 ∧
           Plan.active s.stroke.latched t.walker.cursorSlot = true ∧
           (∀ k, n < k → k < t.walker.cursorSlot → Plan.active s.stroke.latched k = false) ∧
           t.walker.cursorCell = firstCell s.recipe.shadow t.walker.cursorSlot) ∧
         (last → t.walker.state = .stopped ∧ t.stroke.state = .reporting ∧
           t.records = es.map ReportEntry.record ++ [.slot verdict,
             .stroke { s.composeStroke o with rejectMask := t.walker.rejectMask }])) ∧
     (s.walker.state = .paused → s.walker.held = some .pinRecord → s.stroke.owed = [] → ¬ room → gives →
       ∃ t, exec (.recordWriteComplete okay first) s = .next t ∧ t.walker.state = .walking ∧ t.walker.held = none ∧
         t.walker.cursorCell = s.walker.cursorCell + 1 ∧ t.walker.omitted = s.walker.omitted + 1 ∧
         t.records = es.map ReportEntry.record) ∧
     (s.walker.state = .paused → s.stroke.owed = [] → ¬ room →
       (s.walker.held = some .slotVerdict ∨ (s.walker.held = some .pinRecord ∧ x.advances = true ∧ ¬ gives)) →
       ∃ t, exec (.recordWriteComplete okay first) s = .next t ∧ t.walker = s.walker ∧
         t.records = es.map ReportEntry.record) ∧
     (∀ r rs, s.walker.state ≠ .paused → s.stroke.owed = r :: rs → e.record.isRefusal = true →
       (es.filter fun y => y.record.isRefusal).length = 0 →
       ∃ t, exec (.recordWriteComplete okay first) s = .next t ∧ t.stroke.owed = rs ∧
         t.records = es.map ReportEntry.record ++ [.refusal r])) ∧
  (∀ (s : State) (x : Transaction) (rest : List Transaction) (e : ReportEntry) (es : List ReportEntry) (v : StrokeVerdict),
     s.arbiter.inflight = x :: rest → x.kind = .record → x.discard = false → s.writer.queue = e :: es →
     e.record = .stroke v → s.stroke.state = .reporting → s.walker.state ≠ .paused → s.owedOk →
     (∀ okay first, s.stroke.pendingPlan = none → ∃ t, exec (.recordWriteComplete okay first) s = .next t ∧
       t.stroke.state = .idle ∧ t.stroke.outcome = s.stroke.outcome ∧ t.stroke.samplesTaken = s.stroke.samplesTaken) ∧
     (∀ okay q, s.stroke.pendingPlan = some q → ∃ t, exec (.recordWriteComplete okay true) s = .next t ∧
       t.stroke.state = .arming ∧ t.stroke.latched = q ∧ t.stroke.pendingPlan = none ∧ t.stroke.walk = .check 1) ∧
     (∀ q, s.stroke.pendingPlan = some q → s.flagSet .verdict = false → s.lines.enables.getLsbD 0 = true →
       ∃ t, exec (.recordWriteComplete true false) s = .next t ∧ t.stroke.state = .idle ∧ t.stroke.latched = q ∧
         t.refusals = s.refusals ++
           [{ strokeNumber := Plan.strokeNumber q, reason := .abandoned, detailKind := .none, detailIndex := 0 }]))


/-- A head record that would meet the control region: handled as issued and answered ERROR, with no grant: the pointer and the
outstanding transactions do not change (R184, R188; that a PIN_RECORD counts as written is the model's reading, log 18). An arming
request that waits for the entry of a REFUSAL is the matter of ArmWaitsForTheRefusalEntry. -/
def Obligations.RecordMeetingTheRegion : Prop :=
  ∀ (s : State) (e : ReportEntry) (es : List ReportEntry) (first : Bool), s.stroke.state ≠ .loading →
    s.writerBusy = false → s.writer.queue = e :: es → s.ringFull = false →
    ¬ (s.writer.dirty = true ∧ s.writer.lastIssued = .record) → s.recordMeetsRegion = true →
    (e.record.isRefusal = true → s.waitingFor .s .refusalEntry = none) →
    let next := (s.writer.producer + 1) % s.ringCapacity
    ∃ t, exec (.recordToControlRegion first) s = .next t ∧ t.arbiter = s.arbiter ∧ t.writer.lastIssued = .record ∧
      t.writer.producer = next ∧ (t.writer.lap = if next = 0 then !s.writer.lap else s.writer.lap) ∧
      t.writer.dirty = true ∧ t.flagSet .memerr = true ∧
      t.writer.memErrAddr = toAddr (ringBaseField s.recipe.shadow + s.writer.producer * 32) ∧
      ((∃ v, e.record = .stroke v) → t.flagSet .verdict = true) ∧
      ((∃ v, e.record = .refusal v) → t.flagSet .refusal = true) ∧
      t.walker.written = s.walker.written + (if e.record.isPin then 1 else 0) ∧
      t.recipe = s.recipe ∧ t.remap = s.remap ∧ t.checker = s.checker


/-- The completion of a status write: an ERROR is kept with the block's address, and a head record that finds the ring full raises
RING_WAIT, once for each head record, both in one event where both hold (R185, R187, R188). In ARMING, a flag so raised from clear while
enabled abandons the arming (R91, R138; once, whatever flags rise together: log 9, DEDUCED). That a changed error address marks the block
dirty here is the model's reading (log 22, DEDUCED). An answer to a record or status write issued before a warm reset changes no index,
frees no entry and raises no flag (R189, R195). -/
def Obligations.StatusAndDiscardedAnswers : Prop :=
  (∀ (s : State) (x : Transaction) (rest : List Transaction),
     s.arbiter.inflight = x :: rest → x.kind = .status → x.discard = false → (∀ y ∈ rest, y.kind.ofWriter = false) →
     let u : State := { s with arbiter := { s.arbiter with inflight := rest } }
     let addr := toAddr (s.regionBase + 0x2480)
     let waits : Prop := s.writer.queue ≠ [] ∧ s.ringFull = true ∧ s.writer.waitMarked = false
     let rises : Bool → Prop := fun okay => s.stroke.state = .arming ∧
       ((waits ∧ s.flagSet .ringWait = false ∧ s.lines.enables.getLsbD 5 = true) ∨
         (okay = false ∧ s.flagSet .memerr = false ∧ s.lines.enables.getLsbD 7 = true))
     (¬ waits → exec (.statusWriteComplete true) s = .next u) ∧
     (waits → ¬ rises true → exec (.statusWriteComplete true) s = .next { u with
       writer := { s.writer with waitMarked := true, dirty := s.writer.dirty || !s.flagSet .ringWait }
       lines := { s.lines with flags := s.lines.flags ||| 0x20#9 } }) ∧
     (¬ waits → ¬ rises false → exec (.statusWriteComplete false) s = .next { u with
       writer := { s.writer with
         memErrAddr := addr
         dirty := s.writer.dirty || !s.flagSet .memerr || addr != s.writer.memErrAddr }
       lines := { s.lines with flags := s.lines.flags ||| 0x80#9 } }) ∧
     (waits → ¬ rises false → exec (.statusWriteComplete false) s = .next { u with
       writer := { s.writer with
         waitMarked := true
         memErrAddr := addr
         dirty := s.writer.dirty || !s.flagSet .memerr || addr != s.writer.memErrAddr || !s.flagSet .ringWait }
       lines := { s.lines with flags := s.lines.flags ||| 0xA0#9 } }) ∧
     (∀ okay, rises okay → s.owedOk → ∃ t, exec (.statusWriteComplete okay) s = .next t ∧ s.abandonedTo t ∧
       (waits → t.flagSet .ringWait = true) ∧ (okay = false → t.flagSet .memerr = true ∧ t.writer.memErrAddr = addr))) ∧
  (∀ (s : State) (x : Transaction) (rest : List Transaction) (okay first : Bool),
     s.arbiter.inflight = x :: rest → x.discard = true →
     let u : State := { s with arbiter := { s.arbiter with inflight := rest } }
     (x.kind = .record → exec (.recordWriteComplete okay first) s = .next u) ∧
     (x.kind = .status → exec (.statusWriteComplete okay) s = .next u))


/-- An answer of the power-on load: the line's words are stored into the shadow or the staging copy, as 0 with MEMERR and the line's
address on an ERROR, and the last answer ends LOADING with LOADED (R154, R156 to R158). The shadow's list is in its canonical form
(StepKeepsShadowAndSum). -/
def Obligations.LoadReadAnswerStores : Prop :=
  ∀ (s : State) (x : Transaction) (rest : List Transaction) (line : Nat) (okay : Bool) (data : LineData),
    s.arbiter.inflight = x :: rest → x.kind = .loadRead line → s.stroke.state = .loading → s.recipe.shadow.wf = true →
    let words : Fin 16 → Word := fun i => if okay then data[i] else 0#32
    ∃ t, exec (.loadReadAnswer okay data) s = .next t ∧ t.arbiter.inflight = rest ∧
      t.writer.loadAnswered = s.writer.loadAnswered + 1 ∧
      (line < 144 → t.recipe.staging = s.recipe.staging ∧
        (∀ i : Fin 16, t.recipe.shadow.readWord (64 * line + 4 * i) = words i) ∧
        (∀ a, a < 64 * line ∨ 64 * line + 64 ≤ a → t.recipe.shadow.readByte a = s.recipe.shadow.readByte a) ∧
        (s.recipe.sum = shadowSum s.recipe.shadow → t.recipe.sum = shadowSum t.recipe.shadow)) ∧
      (144 ≤ line → t.recipe.shadow = s.recipe.shadow ∧ t.recipe.sum = s.recipe.sum ∧
        ∀ i : Fin 8, t.recipe.staging[i] = words ⟨i.val, by omega⟩) ∧
      (okay = false → t.flagSet .memerr = true ∧ t.writer.memErrAddr = toAddr (s.regionBase + 64 * line)) ∧
      (s.writer.loadAnswered + 1 = 145 → t.stroke.state = .idle ∧ t.flagSet .loaded = true ∧ t.writer.dirty = true) ∧
      (s.writer.loadAnswered + 1 ≠ 145 → t.stroke.state = .loading) ∧
      t.writer.queue = s.writer.queue ∧ t.remap = s.remap ∧ t.checker = s.checker

/-! ## Invariants -/


/-- The state after reset has every invariant. -/
def Obligations.InvariantsHoldAtReset : Prop :=
  State.reset.shadowOk ∧ State.reset.portMOk ∧ State.reset.reportOk ∧ State.reset.ringOk ∧ State.reset.checkerOk ∧
    State.reset.strokeOk

/-- Every step keeps the recipe shadow canonical and summed: the recipe sum is the 32-bit wrapping sum of the 2304 words (R154). -/
def Obligations.StepKeepsShadowAndSum : Prop :=
  ∀ s t : State, s.shadowOk → step s = .next t → t.shadowOk

/-- Every step keeps the bounds of the remap queue (R61), of the outstanding transactions (R192) and of the report writer's own
(R183). -/
def Obligations.StepKeepsPortMBounds : Prop :=
  ∀ s t : State, s.portMOk → step s = .next t → t.portMOk

/-- Every step keeps the report queue within its classes, with the STROKE_VERDICT in REPORTING alone and behind every record of its
stroke, and a refusal owed only while the refusal entry is occupied (R87, R104, R182). -/
def Obligations.StepKeepsReportQueueClasses : Prop :=
  ∀ s t : State, s.reportOk → step s = .next t → t.reportOk

/-- Every step keeps both ring indexes within the capacity of the ring in use (R184, R186). -/
def Obligations.StepKeepsRingIndexes : Prop :=
  ∀ s t : State, s.ringOk → step s = .next t → t.ringOk

/-- Every step keeps the pin contexts in order and the total failing count the sum of the four slot failing counts (R46, R49). -/
def Obligations.StepKeepsPinContexts : Prop :=
  ∀ s t : State, s.checkerOk → step s = .next t → t.checkerOk

/-- Every step keeps the stroke controller consistent: each timer runs in its state alone, a plan is pending only while a stroke is
under way, the walker works exactly in CLOSING, and a closed stroke has an outcome (R85, R92, R93, R95, R108). -/
def Obligations.StepKeepsStrokeController : Prop :=
  ∀ s t : State, s.strokeOk → step s = .next t → t.strokeOk
end

