-- ==== Sys2Proof/Laws/Frames.lean ====
section
/-! SUPPORT. What each operation leaves alone, block by block: the frame of every shared operation, for the simplifier. -/

namespace Sys2Proof.Machine

@[simp] theorem State.markDirty_frame (s : State) :
    s.markDirty.ctrlBase = s.ctrlBase ∧ s.markDirty.clkSel = s.clkSel ∧ s.markDirty.prescaler = s.prescaler ∧
    s.markDirty.portA = s.portA ∧ s.markDirty.portS = s.portS ∧ s.markDirty.recipe = s.recipe ∧
    s.markDirty.protection = s.protection ∧ s.markDirty.stroke = s.stroke ∧ s.markDirty.remap = s.remap ∧
    s.markDirty.checker = s.checker ∧ s.markDirty.walker = s.walker ∧ s.markDirty.lines = s.lines ∧
    s.markDirty.arbiter = s.arbiter ∧ s.markDirty.pending = s.pending := by
  exact ⟨rfl, rfl, rfl, rfl, rfl, rfl, rfl, rfl, rfl, rfl, rfl, rfl, rfl, rfl⟩

@[simp] theorem State.dirtyIf_frame (s : State) (b : Bool) :
    (s.dirtyIf b).ctrlBase = s.ctrlBase ∧ (s.dirtyIf b).clkSel = s.clkSel ∧ (s.dirtyIf b).prescaler = s.prescaler ∧
    (s.dirtyIf b).portA = s.portA ∧ (s.dirtyIf b).portS = s.portS ∧ (s.dirtyIf b).recipe = s.recipe ∧
    (s.dirtyIf b).protection = s.protection ∧ (s.dirtyIf b).stroke = s.stroke ∧ (s.dirtyIf b).remap = s.remap ∧
    (s.dirtyIf b).checker = s.checker ∧ (s.dirtyIf b).walker = s.walker ∧ (s.dirtyIf b).lines = s.lines ∧
    (s.dirtyIf b).arbiter = s.arbiter ∧ (s.dirtyIf b).pending = s.pending := by
  cases b <;> exact ⟨rfl, rfl, rfl, rfl, rfl, rfl, rfl, rfl, rfl, rfl, rfl, rfl, rfl, rfl⟩

@[simp] theorem State.setFlag_frame (s : State) (f : EventFlag) :
    (s.setFlag f).ctrlBase = s.ctrlBase ∧ (s.setFlag f).clkSel = s.clkSel ∧ (s.setFlag f).prescaler = s.prescaler ∧
    (s.setFlag f).portA = s.portA ∧ (s.setFlag f).portS = s.portS ∧ (s.setFlag f).recipe = s.recipe ∧
    (s.setFlag f).protection = s.protection ∧ (s.setFlag f).stroke = s.stroke ∧ (s.setFlag f).remap = s.remap ∧
    (s.setFlag f).checker = s.checker ∧ (s.setFlag f).walker = s.walker ∧ (s.setFlag f).arbiter = s.arbiter ∧
    (s.setFlag f).pending = s.pending := by
  unfold State.setFlag
  split <;> exact ⟨rfl, rfl, rfl, rfl, rfl, rfl, rfl, rfl, rfl, rfl, rfl, rfl, rfl⟩

@[simp] theorem State.captureRefused_frame (s : State) (a : Word) :
    (s.captureRefused a).ctrlBase = s.ctrlBase ∧ (s.captureRefused a).clkSel = s.clkSel ∧
    (s.captureRefused a).prescaler = s.prescaler ∧ (s.captureRefused a).portA = s.portA ∧
    (s.captureRefused a).portS = s.portS ∧ (s.captureRefused a).recipe = s.recipe ∧
    (s.captureRefused a).protection = s.protection ∧ (s.captureRefused a).stroke = s.stroke ∧
    (s.captureRefused a).remap = s.remap ∧ (s.captureRefused a).checker = s.checker ∧
    (s.captureRefused a).walker = s.walker ∧ (s.captureRefused a).arbiter = s.arbiter ∧
    (s.captureRefused a).pending = s.pending := by
  unfold State.captureRefused
  split <;> exact ⟨rfl, rfl, rfl, rfl, rfl, rfl, rfl, rfl, rfl, rfl, rfl, rfl, rfl⟩

@[simp] theorem State.setHaltLatch_frame (s : State) (v : Bool) :
    (s.setHaltLatch v).ctrlBase = s.ctrlBase ∧ (s.setHaltLatch v).clkSel = s.clkSel ∧
    (s.setHaltLatch v).prescaler = s.prescaler ∧ (s.setHaltLatch v).portA = s.portA ∧
    (s.setHaltLatch v).portS = s.portS ∧ (s.setHaltLatch v).recipe = s.recipe ∧
    (s.setHaltLatch v).protection = s.protection ∧ (s.setHaltLatch v).stroke = s.stroke ∧
    (s.setHaltLatch v).remap = s.remap ∧ (s.setHaltLatch v).checker = s.checker ∧
    (s.setHaltLatch v).walker = s.walker ∧ (s.setHaltLatch v).arbiter = s.arbiter ∧
    (s.setHaltLatch v).pending = s.pending := by
  simp [State.setHaltLatch]

@[simp] theorem State.setForce_frame (s : State) (v : ForceState) :
    (s.setForce v).ctrlBase = s.ctrlBase ∧ (s.setForce v).clkSel = s.clkSel ∧
    (s.setForce v).prescaler = s.prescaler ∧ (s.setForce v).portA = s.portA ∧ (s.setForce v).portS = s.portS ∧
    (s.setForce v).recipe = s.recipe ∧ (s.setForce v).protection = s.protection ∧ (s.setForce v).stroke = s.stroke ∧
    (s.setForce v).remap = s.remap ∧ (s.setForce v).checker = s.checker ∧ (s.setForce v).walker = s.walker ∧
    (s.setForce v).arbiter = s.arbiter ∧ (s.setForce v).pending = s.pending := by
  simp [State.setForce]

@[simp] theorem State.setProtection_frame (s : State) (v : BitVec 4) :
    (s.setProtection v).ctrlBase = s.ctrlBase ∧ (s.setProtection v).clkSel = s.clkSel ∧
    (s.setProtection v).prescaler = s.prescaler ∧ (s.setProtection v).portA = s.portA ∧
    (s.setProtection v).portS = s.portS ∧ (s.setProtection v).recipe = s.recipe ∧
    (s.setProtection v).stroke = s.stroke ∧ (s.setProtection v).remap = s.remap ∧
    (s.setProtection v).checker = s.checker ∧ (s.setProtection v).walker = s.walker ∧
    (s.setProtection v).lines = s.lines ∧ (s.setProtection v).arbiter = s.arbiter ∧
    (s.setProtection v).pending = s.pending := by
  simp [State.setProtection]

@[simp] theorem State.acknowledge_frame (s : State) (b : Beat) :
    (s.acknowledge b).ctrlBase = s.ctrlBase ∧ (s.acknowledge b).clkSel = s.clkSel ∧
    (s.acknowledge b).prescaler = s.prescaler ∧ (s.acknowledge b).portA = s.portA ∧
    (s.acknowledge b).portS = s.portS ∧ (s.acknowledge b).recipe = s.recipe ∧
    (s.acknowledge b).protection = s.protection ∧ (s.acknowledge b).stroke = s.stroke ∧
    (s.acknowledge b).remap = s.remap ∧ (s.acknowledge b).checker = s.checker ∧ (s.acknowledge b).walker = s.walker ∧
    (s.acknowledge b).arbiter = s.arbiter ∧ (s.acknowledge b).pending = s.pending := by
  simp [State.acknowledge]

@[simp] theorem State.enableEvents_frame (s : State) (b : Beat) :
    (s.enableEvents b).ctrlBase = s.ctrlBase ∧ (s.enableEvents b).clkSel = s.clkSel ∧
    (s.enableEvents b).prescaler = s.prescaler ∧ (s.enableEvents b).portA = s.portA ∧
    (s.enableEvents b).portS = s.portS ∧ (s.enableEvents b).recipe = s.recipe ∧
    (s.enableEvents b).protection = s.protection ∧ (s.enableEvents b).stroke = s.stroke ∧
    (s.enableEvents b).remap = s.remap ∧ (s.enableEvents b).checker = s.checker ∧
    (s.enableEvents b).walker = s.walker ∧ (s.enableEvents b).arbiter = s.arbiter ∧
    (s.enableEvents b).pending = s.pending := by
  simp [State.enableEvents]

@[simp] theorem State.setPort_frame (s : State) (p : PortId) (np : NearPort) :
    (s.setPort p np).ctrlBase = s.ctrlBase ∧ (s.setPort p np).clkSel = s.clkSel ∧
    (s.setPort p np).prescaler = s.prescaler ∧ (s.setPort p np).recipe = s.recipe ∧
    (s.setPort p np).protection = s.protection ∧ (s.setPort p np).stroke = s.stroke ∧
    (s.setPort p np).remap = s.remap ∧ (s.setPort p np).checker = s.checker ∧ (s.setPort p np).walker = s.walker ∧
    (s.setPort p np).writer = s.writer ∧ (s.setPort p np).lines = s.lines ∧ (s.setPort p np).arbiter = s.arbiter ∧
    (s.setPort p np).pending = s.pending := by
  cases p <;> exact ⟨rfl, rfl, rfl, rfl, rfl, rfl, rfl, rfl, rfl, rfl, rfl, rfl, rfl⟩

@[simp] theorem State.answer_frame (s : State) (p : PortId) (x : Answer) :
    (s.answer p x).ctrlBase = s.ctrlBase ∧ (s.answer p x).clkSel = s.clkSel ∧
    (s.answer p x).prescaler = s.prescaler ∧ (s.answer p x).recipe = s.recipe ∧
    (s.answer p x).protection = s.protection ∧ (s.answer p x).stroke = s.stroke ∧ (s.answer p x).remap = s.remap ∧
    (s.answer p x).checker = s.checker ∧ (s.answer p x).walker = s.walker ∧ (s.answer p x).writer = s.writer ∧
    (s.answer p x).lines = s.lines ∧ (s.answer p x).arbiter = s.arbiter ∧ (s.answer p x).pending = s.pending := by
  simp [State.answer]

@[simp] theorem State.waitAt_frame (s : State) (p : PortId) (r : Request) (c : WaitCause) :
    (s.waitAt p r c).ctrlBase = s.ctrlBase ∧ (s.waitAt p r c).clkSel = s.clkSel ∧
    (s.waitAt p r c).prescaler = s.prescaler ∧ (s.waitAt p r c).recipe = s.recipe ∧
    (s.waitAt p r c).protection = s.protection ∧ (s.waitAt p r c).stroke = s.stroke ∧
    (s.waitAt p r c).remap = s.remap ∧ (s.waitAt p r c).checker = s.checker ∧ (s.waitAt p r c).walker = s.walker ∧
    (s.waitAt p r c).writer = s.writer ∧ (s.waitAt p r c).lines = s.lines ∧ (s.waitAt p r c).arbiter = s.arbiter ∧
    (s.waitAt p r c).pending = s.pending := by
  simp [State.waitAt]

@[simp] theorem State.forward_frame (s : State) (p : PortId) (r : Request) :
    (s.forward p r).ctrlBase = s.ctrlBase ∧ (s.forward p r).clkSel = s.clkSel ∧
    (s.forward p r).prescaler = s.prescaler ∧ (s.forward p r).recipe = s.recipe ∧
    (s.forward p r).protection = s.protection ∧ (s.forward p r).stroke = s.stroke ∧ (s.forward p r).remap = s.remap ∧
    (s.forward p r).checker = s.checker ∧ (s.forward p r).walker = s.walker ∧ (s.forward p r).writer = s.writer ∧
    (s.forward p r).lines = s.lines ∧ (s.forward p r).arbiter = s.arbiter ∧ (s.forward p r).pending = s.pending := by
  simp [State.forward]

@[simp] theorem State.freePort_frame (s : State) (p : PortId) :
    (s.freePort p).ctrlBase = s.ctrlBase ∧ (s.freePort p).clkSel = s.clkSel ∧
    (s.freePort p).prescaler = s.prescaler ∧ (s.freePort p).recipe = s.recipe ∧
    (s.freePort p).protection = s.protection ∧ (s.freePort p).stroke = s.stroke ∧ (s.freePort p).remap = s.remap ∧
    (s.freePort p).checker = s.checker ∧ (s.freePort p).walker = s.walker ∧ (s.freePort p).writer = s.writer ∧
    (s.freePort p).lines = s.lines ∧ (s.freePort p).arbiter = s.arbiter ∧ (s.freePort p).pending = s.pending := by
  simp [State.freePort]

@[simp] theorem State.putPin_frame (s : State) (c : Nat) (x : PinContext) :
    (s.putPin c x).ctrlBase = s.ctrlBase ∧ (s.putPin c x).clkSel = s.clkSel ∧
    (s.putPin c x).prescaler = s.prescaler ∧ (s.putPin c x).portA = s.portA ∧ (s.putPin c x).portS = s.portS ∧
    (s.putPin c x).recipe = s.recipe ∧ (s.putPin c x).protection = s.protection ∧ (s.putPin c x).stroke = s.stroke ∧
    (s.putPin c x).remap = s.remap ∧ (s.putPin c x).walker = s.walker ∧ (s.putPin c x).writer = s.writer ∧
    (s.putPin c x).lines = s.lines ∧ (s.putPin c x).arbiter = s.arbiter ∧ (s.putPin c x).pending = s.pending := by
  unfold State.putPin
  dsimp only
  split <;> (try split) <;> exact ⟨rfl, rfl, rfl, rfl, rfl, rfl, rfl, rfl, rfl, rfl, rfl, rfl, rfl, rfl⟩

@[simp] theorem State.presentBeat_frame (s : State) (c st : Nat) (w : Word) (h : Bool) :
    (s.presentBeat c st w h).2.2.ctrlBase = s.ctrlBase ∧ (s.presentBeat c st w h).2.2.clkSel = s.clkSel ∧
    (s.presentBeat c st w h).2.2.prescaler = s.prescaler ∧ (s.presentBeat c st w h).2.2.portA = s.portA ∧
    (s.presentBeat c st w h).2.2.portS = s.portS ∧ (s.presentBeat c st w h).2.2.recipe = s.recipe ∧
    (s.presentBeat c st w h).2.2.protection = s.protection ∧ (s.presentBeat c st w h).2.2.stroke = s.stroke ∧
    (s.presentBeat c st w h).2.2.remap = s.remap ∧ (s.presentBeat c st w h).2.2.walker = s.walker ∧
    (s.presentBeat c st w h).2.2.writer = s.writer ∧ (s.presentBeat c st w h).2.2.lines = s.lines ∧
    (s.presentBeat c st w h).2.2.arbiter = s.arbiter ∧ (s.presentBeat c st w h).2.2.pending = s.pending := by
  unfold State.presentBeat
  split <;> simp

@[simp] theorem State.clearPins_frame (s : State) :
    s.clearPins.ctrlBase = s.ctrlBase ∧ s.clearPins.clkSel = s.clkSel ∧ s.clearPins.prescaler = s.prescaler ∧
    s.clearPins.portA = s.portA ∧ s.clearPins.portS = s.portS ∧ s.clearPins.recipe = s.recipe ∧
    s.clearPins.protection = s.protection ∧ s.clearPins.stroke = s.stroke ∧ s.clearPins.remap = s.remap ∧
    s.clearPins.walker = s.walker ∧ s.clearPins.writer = s.writer ∧ s.clearPins.lines = s.lines ∧
    s.clearPins.arbiter = s.arbiter ∧ s.clearPins.pending = s.pending := by
  simp [State.clearPins]

@[simp] theorem State.finalCheck_frame (s : State) (c : Nat) :
    (s.finalCheck c).ctrlBase = s.ctrlBase ∧ (s.finalCheck c).clkSel = s.clkSel ∧
    (s.finalCheck c).prescaler = s.prescaler ∧ (s.finalCheck c).portA = s.portA ∧ (s.finalCheck c).portS = s.portS ∧
    (s.finalCheck c).recipe = s.recipe ∧ (s.finalCheck c).protection = s.protection ∧
    (s.finalCheck c).stroke = s.stroke ∧ (s.finalCheck c).remap = s.remap ∧ (s.finalCheck c).walker = s.walker ∧
    (s.finalCheck c).writer = s.writer ∧ (s.finalCheck c).lines = s.lines ∧ (s.finalCheck c).arbiter = s.arbiter ∧
    (s.finalCheck c).pending = s.pending := by
  unfold State.finalCheck
  split <;> (try split) <;> simp

@[simp] theorem State.takeUpHead_frame (s : State) :
    s.takeUpHead.ctrlBase = s.ctrlBase ∧ s.takeUpHead.clkSel = s.clkSel ∧ s.takeUpHead.prescaler = s.prescaler ∧
    s.takeUpHead.portA = s.portA ∧ s.takeUpHead.portS = s.portS ∧ s.takeUpHead.recipe = s.recipe ∧
    s.takeUpHead.protection = s.protection ∧ s.takeUpHead.stroke = s.stroke ∧ s.takeUpHead.remap = s.remap ∧
    s.takeUpHead.checker = s.checker ∧ s.takeUpHead.walker = s.walker ∧ s.takeUpHead.arbiter = s.arbiter ∧
    s.takeUpHead.pending = s.pending := by
  unfold State.takeUpHead
  split <;> simp

@[simp] theorem State.enqueue_frame (s : State) (r : Record) :
    (s.enqueue r).ctrlBase = s.ctrlBase ∧ (s.enqueue r).clkSel = s.clkSel ∧ (s.enqueue r).prescaler = s.prescaler ∧
    (s.enqueue r).portA = s.portA ∧ (s.enqueue r).portS = s.portS ∧ (s.enqueue r).recipe = s.recipe ∧
    (s.enqueue r).protection = s.protection ∧ (s.enqueue r).stroke = s.stroke ∧ (s.enqueue r).remap = s.remap ∧
    (s.enqueue r).checker = s.checker ∧ (s.enqueue r).walker = s.walker ∧ (s.enqueue r).arbiter = s.arbiter ∧
    (s.enqueue r).pending = s.pending := by
  unfold State.enqueue
  dsimp only
  split <;> simp

@[simp] theorem State.queueRefusal_frame (s : State) (r : RefusalRecord) :
    (s.queueRefusal r).ctrlBase = s.ctrlBase ∧ (s.queueRefusal r).clkSel = s.clkSel ∧
    (s.queueRefusal r).prescaler = s.prescaler ∧ (s.queueRefusal r).portA = s.portA ∧
    (s.queueRefusal r).portS = s.portS ∧ (s.queueRefusal r).recipe = s.recipe ∧
    (s.queueRefusal r).protection = s.protection ∧ (s.queueRefusal r).remap = s.remap ∧
    (s.queueRefusal r).checker = s.checker ∧ (s.queueRefusal r).walker = s.walker ∧
    (s.queueRefusal r).arbiter = s.arbiter ∧ (s.queueRefusal r).pending = s.pending := by
  unfold State.queueRefusal
  split <;> simp

@[simp] theorem State.handOffOwed_frame (s : State) :
    s.handOffOwed.ctrlBase = s.ctrlBase ∧ s.handOffOwed.clkSel = s.clkSel ∧ s.handOffOwed.prescaler = s.prescaler ∧
    s.handOffOwed.portA = s.portA ∧ s.handOffOwed.portS = s.portS ∧ s.handOffOwed.recipe = s.recipe ∧
    s.handOffOwed.protection = s.protection ∧ s.handOffOwed.remap = s.remap ∧ s.handOffOwed.checker = s.checker ∧
    s.handOffOwed.walker = s.walker ∧ s.handOffOwed.arbiter = s.arbiter ∧ s.handOffOwed.pending = s.pending := by
  unfold State.handOffOwed
  split <;> (try split) <;> simp

@[simp] theorem State.enter_frame (s : State) (st : StrokeState) :
    (s.enter st).ctrlBase = s.ctrlBase ∧ (s.enter st).clkSel = s.clkSel ∧ (s.enter st).prescaler = s.prescaler ∧
    (s.enter st).portA = s.portA ∧ (s.enter st).portS = s.portS ∧ (s.enter st).recipe = s.recipe ∧
    (s.enter st).protection = s.protection ∧ (s.enter st).remap = s.remap ∧ (s.enter st).checker = s.checker ∧
    (s.enter st).walker = s.walker ∧ (s.enter st).lines = s.lines ∧ (s.enter st).arbiter = s.arbiter ∧
    (s.enter st).pending = s.pending := by
  simp [State.enter]

@[simp] theorem State.beginArming_frame (s : State) (p : Plan) :
    (s.beginArming p).ctrlBase = s.ctrlBase ∧ (s.beginArming p).clkSel = s.clkSel ∧
    (s.beginArming p).prescaler = s.prescaler ∧ (s.beginArming p).portA = s.portA ∧
    (s.beginArming p).portS = s.portS ∧ (s.beginArming p).recipe = s.recipe ∧
    (s.beginArming p).protection = s.protection ∧ (s.beginArming p).remap = s.remap ∧
    (s.beginArming p).checker = s.checker ∧ (s.beginArming p).walker = s.walker ∧ (s.beginArming p).lines = s.lines ∧
    (s.beginArming p).arbiter = s.arbiter ∧ (s.beginArming p).pending = s.pending := by
  simp [State.beginArming]

@[simp] theorem State.enterIdle_frame (s : State) :
    s.enterIdle.ctrlBase = s.ctrlBase ∧ s.enterIdle.clkSel = s.clkSel ∧ s.enterIdle.prescaler = s.prescaler ∧
    s.enterIdle.portA = s.portA ∧ s.enterIdle.portS = s.portS ∧ s.enterIdle.recipe = s.recipe ∧
    s.enterIdle.protection = s.protection ∧ s.enterIdle.remap = s.remap ∧ s.enterIdle.checker = s.checker ∧
    s.enterIdle.walker = s.walker ∧ s.enterIdle.lines = s.lines ∧ s.enterIdle.arbiter = s.arbiter ∧
    s.enterIdle.pending = s.pending := by
  unfold State.enterIdle
  split <;> simp

@[simp] theorem State.refuseArming_frame (s : State) (r : RefusalRecord) :
    (s.refuseArming r).ctrlBase = s.ctrlBase ∧ (s.refuseArming r).clkSel = s.clkSel ∧
    (s.refuseArming r).prescaler = s.prescaler ∧ (s.refuseArming r).portA = s.portA ∧
    (s.refuseArming r).portS = s.portS ∧ (s.refuseArming r).recipe = s.recipe ∧
    (s.refuseArming r).protection = s.protection ∧ (s.refuseArming r).remap = s.remap ∧
    (s.refuseArming r).checker = s.checker ∧ (s.refuseArming r).walker = s.walker ∧
    (s.refuseArming r).arbiter = s.arbiter ∧ (s.refuseArming r).pending = s.pending := by
  simp [State.refuseArming]

@[simp] theorem State.abandonArming_frame (s : State) :
    s.abandonArming.ctrlBase = s.ctrlBase ∧ s.abandonArming.clkSel = s.clkSel ∧
    s.abandonArming.prescaler = s.prescaler ∧ s.abandonArming.portA = s.portA ∧ s.abandonArming.portS = s.portS ∧
    s.abandonArming.recipe = s.recipe ∧ s.abandonArming.protection = s.protection ∧ s.abandonArming.remap = s.remap ∧
    s.abandonArming.checker = s.checker ∧ s.abandonArming.walker = s.walker ∧ s.abandonArming.arbiter = s.arbiter ∧
    s.abandonArming.pending = s.pending := by
  simp [State.abandonArming]

@[simp] theorem State.notice_frame (s : State) (b : BitVec 9) :
    (s.notice b).ctrlBase = s.ctrlBase ∧ (s.notice b).clkSel = s.clkSel ∧ (s.notice b).prescaler = s.prescaler ∧
    (s.notice b).portA = s.portA ∧ (s.notice b).portS = s.portS ∧ (s.notice b).recipe = s.recipe ∧
    (s.notice b).protection = s.protection ∧ (s.notice b).remap = s.remap ∧ (s.notice b).checker = s.checker ∧
    (s.notice b).walker = s.walker ∧ (s.notice b).arbiter = s.arbiter ∧ (s.notice b).pending = s.pending := by
  unfold State.notice
  split <;> simp

@[simp] theorem State.raise_frame (s : State) (f : EventFlag) :
    (s.raise f).ctrlBase = s.ctrlBase ∧ (s.raise f).clkSel = s.clkSel ∧ (s.raise f).prescaler = s.prescaler ∧
    (s.raise f).portA = s.portA ∧ (s.raise f).portS = s.portS ∧ (s.raise f).recipe = s.recipe ∧
    (s.raise f).protection = s.protection ∧ (s.raise f).remap = s.remap ∧ (s.raise f).checker = s.checker ∧
    (s.raise f).walker = s.walker ∧ (s.raise f).arbiter = s.arbiter ∧ (s.raise f).pending = s.pending := by
  simp [State.raise]

@[simp] theorem State.refuseWrite_frame (s : State) (f : EventFlag) (a : Word) :
    (s.refuseWrite f a).ctrlBase = s.ctrlBase ∧ (s.refuseWrite f a).clkSel = s.clkSel ∧
    (s.refuseWrite f a).prescaler = s.prescaler ∧ (s.refuseWrite f a).portA = s.portA ∧
    (s.refuseWrite f a).portS = s.portS ∧ (s.refuseWrite f a).recipe = s.recipe ∧
    (s.refuseWrite f a).protection = s.protection ∧ (s.refuseWrite f a).remap = s.remap ∧
    (s.refuseWrite f a).checker = s.checker ∧ (s.refuseWrite f a).walker = s.walker ∧
    (s.refuseWrite f a).arbiter = s.arbiter ∧ (s.refuseWrite f a).pending = s.pending := by
  simp [State.refuseWrite]

@[simp] theorem State.dropWaiting_frame (s : State) (p : PortId) :
    (s.dropWaiting p).ctrlBase = s.ctrlBase ∧ (s.dropWaiting p).clkSel = s.clkSel ∧
    (s.dropWaiting p).prescaler = s.prescaler ∧ (s.dropWaiting p).recipe = s.recipe ∧
    (s.dropWaiting p).protection = s.protection ∧ (s.dropWaiting p).remap = s.remap ∧
    (s.dropWaiting p).checker = s.checker ∧ (s.dropWaiting p).walker = s.walker ∧
    (s.dropWaiting p).arbiter = s.arbiter ∧ (s.dropWaiting p).pending = s.pending := by
  unfold State.dropWaiting
  split <;> simp

@[simp] theorem State.stopWalker_frame (s : State) :
    s.stopWalker.ctrlBase = s.ctrlBase ∧ s.stopWalker.clkSel = s.clkSel ∧ s.stopWalker.prescaler = s.prescaler ∧
    s.stopWalker.portA = s.portA ∧ s.stopWalker.portS = s.portS ∧ s.stopWalker.recipe = s.recipe ∧
    s.stopWalker.protection = s.protection ∧ s.stopWalker.stroke = s.stroke ∧ s.stopWalker.remap = s.remap ∧
    s.stopWalker.checker = s.checker ∧ s.stopWalker.writer = s.writer ∧ s.stopWalker.lines = s.lines ∧
    s.stopWalker.arbiter = s.arbiter ∧ s.stopWalker.pending = s.pending := by
  exact ⟨rfl, rfl, rfl, rfl, rfl, rfl, rfl, rfl, rfl, rfl, rfl, rfl, rfl, rfl⟩

@[simp] theorem State.setOutcome_frame (s : State) (o : StrokeOutcome) :
    (s.setOutcome o).ctrlBase = s.ctrlBase ∧ (s.setOutcome o).clkSel = s.clkSel ∧
    (s.setOutcome o).prescaler = s.prescaler ∧ (s.setOutcome o).portA = s.portA ∧ (s.setOutcome o).portS = s.portS ∧
    (s.setOutcome o).recipe = s.recipe ∧ (s.setOutcome o).protection = s.protection ∧
    (s.setOutcome o).remap = s.remap ∧ (s.setOutcome o).checker = s.checker ∧ (s.setOutcome o).walker = s.walker ∧
    (s.setOutcome o).writer = s.writer ∧ (s.setOutcome o).lines = s.lines ∧ (s.setOutcome o).arbiter = s.arbiter ∧
    (s.setOutcome o).pending = s.pending := by
  exact ⟨rfl, rfl, rfl, rfl, rfl, rfl, rfl, rfl, rfl, rfl, rfl, rfl, rfl, rfl⟩

@[simp] theorem State.queueStrokeVerdict_frame (s : State) (o : StrokeOutcome) :
    (s.queueStrokeVerdict o).ctrlBase = s.ctrlBase ∧ (s.queueStrokeVerdict o).clkSel = s.clkSel ∧
    (s.queueStrokeVerdict o).prescaler = s.prescaler ∧ (s.queueStrokeVerdict o).portA = s.portA ∧
    (s.queueStrokeVerdict o).portS = s.portS ∧ (s.queueStrokeVerdict o).recipe = s.recipe ∧
    (s.queueStrokeVerdict o).protection = s.protection ∧ (s.queueStrokeVerdict o).remap = s.remap ∧
    (s.queueStrokeVerdict o).checker = s.checker ∧ (s.queueStrokeVerdict o).arbiter = s.arbiter ∧
    (s.queueStrokeVerdict o).pending = s.pending := by
  simp [State.queueStrokeVerdict]

@[simp] theorem State.queueEmptySlots_frame (s : State) (ns : List Nat) :
    (s.queueEmptySlots ns).ctrlBase = s.ctrlBase ∧ (s.queueEmptySlots ns).clkSel = s.clkSel ∧
    (s.queueEmptySlots ns).prescaler = s.prescaler ∧ (s.queueEmptySlots ns).portA = s.portA ∧
    (s.queueEmptySlots ns).portS = s.portS ∧ (s.queueEmptySlots ns).recipe = s.recipe ∧
    (s.queueEmptySlots ns).protection = s.protection ∧ (s.queueEmptySlots ns).stroke = s.stroke ∧
    (s.queueEmptySlots ns).remap = s.remap ∧ (s.queueEmptySlots ns).checker = s.checker ∧
    (s.queueEmptySlots ns).walker = s.walker ∧ (s.queueEmptySlots ns).arbiter = s.arbiter ∧
    (s.queueEmptySlots ns).pending = s.pending := by
  induction ns generalizing s with
  | nil => exact ⟨rfl, rfl, rfl, rfl, rfl, rfl, rfl, rfl, rfl, rfl, rfl, rfl, rfl⟩
  | cons n ns ih => rw [State.queueEmptySlots]; split <;> simp [ih]

@[simp] theorem State.startWalk_frame (s : State) (o : StrokeOutcome) :
    (s.startWalk o).ctrlBase = s.ctrlBase ∧ (s.startWalk o).clkSel = s.clkSel ∧
    (s.startWalk o).prescaler = s.prescaler ∧ (s.startWalk o).portA = s.portA ∧ (s.startWalk o).portS = s.portS ∧
    (s.startWalk o).recipe = s.recipe ∧ (s.startWalk o).protection = s.protection ∧ (s.startWalk o).remap = s.remap ∧
    (s.startWalk o).checker = s.checker ∧ (s.startWalk o).arbiter = s.arbiter ∧ (s.startWalk o).pending = s.pending := by
  unfold State.startWalk
  split <;> simp

@[simp] theorem State.endStroke_frame (s : State) (o : StrokeOutcome) :
    (s.endStroke o).ctrlBase = s.ctrlBase ∧ (s.endStroke o).clkSel = s.clkSel ∧
    (s.endStroke o).prescaler = s.prescaler ∧ (s.endStroke o).recipe = s.recipe ∧
    (s.endStroke o).protection = s.protection ∧ (s.endStroke o).remap = s.remap ∧
    (s.endStroke o).checker = s.checker ∧ (s.endStroke o).arbiter = s.arbiter ∧ (s.endStroke o).pending = s.pending := by
  unfold State.endStroke
  dsimp only
  split <;> (try split) <;> simp

@[simp] theorem State.cutClosing_frame (s : State) (o : StrokeOutcome) :
    (s.cutClosing o).ctrlBase = s.ctrlBase ∧ (s.cutClosing o).clkSel = s.clkSel ∧
    (s.cutClosing o).prescaler = s.prescaler ∧ (s.cutClosing o).portA = s.portA ∧ (s.cutClosing o).portS = s.portS ∧
    (s.cutClosing o).recipe = s.recipe ∧ (s.cutClosing o).protection = s.protection ∧
    (s.cutClosing o).remap = s.remap ∧ (s.cutClosing o).checker = s.checker ∧ (s.cutClosing o).arbiter = s.arbiter ∧
    (s.cutClosing o).pending = s.pending := by
  simp [State.cutClosing]

@[simp] theorem State.hardChange_frame (s : State) :
    s.hardChange.ctrlBase = s.ctrlBase ∧ s.hardChange.clkSel = s.clkSel ∧ s.hardChange.prescaler = s.prescaler ∧
    s.hardChange.recipe = s.recipe ∧ s.hardChange.protection = s.protection ∧ s.hardChange.remap = s.remap ∧
    s.hardChange.checker = s.checker ∧ s.hardChange.arbiter = s.arbiter ∧ s.hardChange.pending = s.pending := by
  unfold State.hardChange
  split <;> simp

@[simp] theorem State.discardPending_frame (s : State) :
    s.discardPending.ctrlBase = s.ctrlBase ∧ s.discardPending.clkSel = s.clkSel ∧
    s.discardPending.prescaler = s.prescaler ∧ s.discardPending.portA = s.portA ∧ s.discardPending.portS = s.portS ∧
    s.discardPending.recipe = s.recipe ∧ s.discardPending.protection = s.protection ∧
    s.discardPending.remap = s.remap ∧ s.discardPending.checker = s.checker ∧ s.discardPending.walker = s.walker ∧
    s.discardPending.arbiter = s.arbiter ∧ s.discardPending.pending = s.pending := by
  unfold State.discardPending
  split <;> simp

@[simp] theorem State.discardPins_frame (s : State) :
    s.discardPins.ctrlBase = s.ctrlBase ∧ s.discardPins.clkSel = s.clkSel ∧ s.discardPins.prescaler = s.prescaler ∧
    s.discardPins.portA = s.portA ∧ s.discardPins.portS = s.portS ∧ s.discardPins.recipe = s.recipe ∧
    s.discardPins.protection = s.protection ∧ s.discardPins.stroke = s.stroke ∧ s.discardPins.remap = s.remap ∧
    s.discardPins.checker = s.checker ∧ s.discardPins.arbiter = s.arbiter ∧ s.discardPins.pending = s.pending := by
  unfold State.discardPins
  dsimp only
  split <;> split <;> simp

@[simp] theorem State.abort_frame (s : State) :
    s.abort.1.ctrlBase = s.ctrlBase ∧ s.abort.1.clkSel = s.clkSel ∧ s.abort.1.prescaler = s.prescaler ∧
    s.abort.1.recipe = s.recipe ∧ s.abort.1.protection = s.protection ∧ s.abort.1.remap = s.remap ∧
    s.abort.1.checker = s.checker ∧ s.abort.1.arbiter = s.arbiter ∧ s.abort.1.pending = s.pending := by
  unfold State.abort
  split <;> simp

@[simp] theorem State.pendPlan_frame (s : State) :
    s.pendPlan.ctrlBase = s.ctrlBase ∧ s.pendPlan.clkSel = s.clkSel ∧ s.pendPlan.prescaler = s.prescaler ∧
    s.pendPlan.portA = s.portA ∧ s.pendPlan.portS = s.portS ∧ s.pendPlan.recipe = s.recipe ∧
    s.pendPlan.protection = s.protection ∧ s.pendPlan.remap = s.remap ∧ s.pendPlan.checker = s.checker ∧
    s.pendPlan.walker = s.walker ∧ s.pendPlan.arbiter = s.arbiter ∧ s.pendPlan.pending = s.pending := by
  unfold State.pendPlan
  dsimp only
  split <;> simp

@[simp] theorem State.armRequest_frame (s : State) :
    s.armRequest.ctrlBase = s.ctrlBase ∧ s.armRequest.clkSel = s.clkSel ∧ s.armRequest.prescaler = s.prescaler ∧
    s.armRequest.portA = s.portA ∧ s.armRequest.portS = s.portS ∧ s.armRequest.recipe = s.recipe ∧
    s.armRequest.protection = s.protection ∧ s.armRequest.remap = s.remap ∧ s.armRequest.checker = s.checker ∧
    s.armRequest.walker = s.walker ∧ s.armRequest.arbiter = s.arbiter ∧ s.armRequest.pending = s.pending := by
  unfold State.armRequest
  split <;> simp

@[simp] theorem State.resetRing_frame (s : State) :
    s.resetRing.ctrlBase = s.ctrlBase ∧ s.resetRing.clkSel = s.clkSel ∧ s.resetRing.prescaler = s.prescaler ∧
    s.resetRing.portA = s.portA ∧ s.resetRing.portS = s.portS ∧ s.resetRing.recipe = s.recipe ∧
    s.resetRing.protection = s.protection ∧ s.resetRing.stroke = s.stroke ∧ s.resetRing.remap = s.remap ∧
    s.resetRing.checker = s.checker ∧ s.resetRing.walker = s.walker ∧ s.resetRing.lines = s.lines ∧
    s.resetRing.pending = s.pending := by
  simp [State.resetRing]

@[simp] theorem State.writeRecipe_frame (s : State) (off : Nat) (bs : List Beat) :
    (s.writeRecipe off bs).ctrlBase = s.ctrlBase ∧ (s.writeRecipe off bs).clkSel = s.clkSel ∧
    (s.writeRecipe off bs).prescaler = s.prescaler ∧ (s.writeRecipe off bs).protection = s.protection ∧
    (s.writeRecipe off bs).remap = s.remap ∧ (s.writeRecipe off bs).checker = s.checker ∧
    (s.writeRecipe off bs).pending = s.pending := by
  unfold State.writeRecipe
  dsimp only
  split <;> (try split) <;> simp

@[simp] theorem State.stagePlan_frame (s : State) (off : Nat) (b : Beat) :
    (s.stagePlan off b).ctrlBase = s.ctrlBase ∧ (s.stagePlan off b).clkSel = s.clkSel ∧
    (s.stagePlan off b).prescaler = s.prescaler ∧ (s.stagePlan off b).portA = s.portA ∧
    (s.stagePlan off b).portS = s.portS ∧ (s.stagePlan off b).protection = s.protection ∧
    (s.stagePlan off b).stroke = s.stroke ∧ (s.stagePlan off b).remap = s.remap ∧
    (s.stagePlan off b).checker = s.checker ∧ (s.stagePlan off b).walker = s.walker ∧
    (s.stagePlan off b).writer = s.writer ∧ (s.stagePlan off b).lines = s.lines ∧
    (s.stagePlan off b).arbiter = s.arbiter ∧ (s.stagePlan off b).pending = s.pending := by
  simp [State.stagePlan]

@[simp] theorem State.haltClear_frame (s : State) :
    s.haltClear.1.ctrlBase = s.ctrlBase ∧ s.haltClear.1.clkSel = s.clkSel ∧ s.haltClear.1.prescaler = s.prescaler ∧
    s.haltClear.1.portA = s.portA ∧ s.haltClear.1.portS = s.portS ∧ s.haltClear.1.recipe = s.recipe ∧
    s.haltClear.1.protection = s.protection ∧ s.haltClear.1.stroke = s.stroke ∧ s.haltClear.1.remap = s.remap ∧
    s.haltClear.1.checker = s.checker ∧ s.haltClear.1.walker = s.walker ∧ s.haltClear.1.arbiter = s.arbiter ∧
    s.haltClear.1.pending = s.pending := by
  unfold State.haltClear
  split <;> simp

@[simp] theorem State.forceHaltOn_frame (s : State) :
    s.forceHaltOn.1.ctrlBase = s.ctrlBase ∧ s.forceHaltOn.1.clkSel = s.clkSel ∧
    s.forceHaltOn.1.prescaler = s.prescaler ∧ s.forceHaltOn.1.portA = s.portA ∧ s.forceHaltOn.1.portS = s.portS ∧
    s.forceHaltOn.1.recipe = s.recipe ∧ s.forceHaltOn.1.protection = s.protection ∧
    s.forceHaltOn.1.stroke = s.stroke ∧ s.forceHaltOn.1.remap = s.remap ∧ s.forceHaltOn.1.checker = s.checker ∧
    s.forceHaltOn.1.walker = s.walker ∧ s.forceHaltOn.1.arbiter = s.arbiter ∧ s.forceHaltOn.1.pending = s.pending := by
  simp [State.forceHaltOn]

@[simp] theorem State.forceHaltOff_frame (s : State) :
    s.forceHaltOff.1.ctrlBase = s.ctrlBase ∧ s.forceHaltOff.1.clkSel = s.clkSel ∧
    s.forceHaltOff.1.prescaler = s.prescaler ∧ s.forceHaltOff.1.portA = s.portA ∧ s.forceHaltOff.1.portS = s.portS ∧
    s.forceHaltOff.1.recipe = s.recipe ∧ s.forceHaltOff.1.protection = s.protection ∧
    s.forceHaltOff.1.stroke = s.stroke ∧ s.forceHaltOff.1.remap = s.remap ∧ s.forceHaltOff.1.checker = s.checker ∧
    s.forceHaltOff.1.walker = s.walker ∧ s.forceHaltOff.1.arbiter = s.arbiter ∧ s.forceHaltOff.1.pending = s.pending := by
  unfold State.forceHaltOff
  split <;> simp

@[simp] theorem State.forceRelease_frame (s : State) :
    s.forceRelease.1.ctrlBase = s.ctrlBase ∧ s.forceRelease.1.clkSel = s.clkSel ∧
    s.forceRelease.1.prescaler = s.prescaler ∧ s.forceRelease.1.portA = s.portA ∧ s.forceRelease.1.portS = s.portS ∧
    s.forceRelease.1.recipe = s.recipe ∧ s.forceRelease.1.protection = s.protection ∧
    s.forceRelease.1.stroke = s.stroke ∧ s.forceRelease.1.remap = s.remap ∧ s.forceRelease.1.checker = s.checker ∧
    s.forceRelease.1.walker = s.walker ∧ s.forceRelease.1.arbiter = s.arbiter ∧ s.forceRelease.1.pending = s.pending := by
  simp [State.forceRelease]

@[simp] theorem State.release_frame (s : State) :
    s.release.1.ctrlBase = s.ctrlBase ∧ s.release.1.clkSel = s.clkSel ∧ s.release.1.prescaler = s.prescaler ∧
    s.release.1.portA = s.portA ∧ s.release.1.portS = s.portS ∧ s.release.1.recipe = s.recipe ∧
    s.release.1.stroke = s.stroke ∧ s.release.1.remap = s.remap ∧ s.release.1.checker = s.checker ∧
    s.release.1.walker = s.walker ∧ s.release.1.lines = s.lines ∧ s.release.1.arbiter = s.arbiter ∧
    s.release.1.pending = s.pending := by
  unfold State.release
  split <;> (try split) <;> (try split) <;> simp

@[simp] theorem State.ownerActs_frame (s : State) (b : Beat) :
    (s.ownerActs b).1.ctrlBase = s.ctrlBase ∧ (s.ownerActs b).1.clkSel = s.clkSel ∧
    (s.ownerActs b).1.prescaler = s.prescaler ∧ (s.ownerActs b).1.recipe = s.recipe ∧
    (s.ownerActs b).1.remap = s.remap ∧ (s.ownerActs b).1.checker = s.checker ∧
    (s.ownerActs b).1.arbiter = s.arbiter ∧ (s.ownerActs b).1.pending = s.pending := by
  unfold State.ownerActs
  split <;> (try split) <;> simp

@[simp] theorem State.command_frame (s : State) (b : Beat) :
    (s.command b).ctrlBase = s.ctrlBase ∧ (s.command b).clkSel = s.clkSel ∧ (s.command b).prescaler = s.prescaler ∧
    (s.command b).recipe = s.recipe ∧ (s.command b).remap = s.remap ∧ (s.command b).checker = s.checker ∧
    (s.command b).arbiter = s.arbiter ∧ (s.command b).pending = s.pending := by
  simp [State.command]

@[simp] theorem State.protect_frame (s : State) (b : Beat) :
    (s.protect b).ctrlBase = s.ctrlBase ∧ (s.protect b).clkSel = s.clkSel ∧ (s.protect b).prescaler = s.prescaler ∧
    (s.protect b).portA = s.portA ∧ (s.protect b).portS = s.portS ∧ (s.protect b).recipe = s.recipe ∧
    (s.protect b).stroke = s.stroke ∧ (s.protect b).remap = s.remap ∧ (s.protect b).checker = s.checker ∧
    (s.protect b).walker = s.walker ∧ (s.protect b).arbiter = s.arbiter ∧ (s.protect b).pending = s.pending := by
  unfold State.protect
  dsimp only
  split <;> simp

@[simp] theorem State.writeConsumer_frame (s : State) (b : Beat) :
    (s.writeConsumer b).ctrlBase = s.ctrlBase ∧ (s.writeConsumer b).clkSel = s.clkSel ∧
    (s.writeConsumer b).prescaler = s.prescaler ∧ (s.writeConsumer b).portA = s.portA ∧
    (s.writeConsumer b).portS = s.portS ∧ (s.writeConsumer b).recipe = s.recipe ∧
    (s.writeConsumer b).protection = s.protection ∧ (s.writeConsumer b).remap = s.remap ∧
    (s.writeConsumer b).checker = s.checker ∧ (s.writeConsumer b).walker = s.walker ∧
    (s.writeConsumer b).arbiter = s.arbiter ∧ (s.writeConsumer b).pending = s.pending := by
  unfold State.writeConsumer
  dsimp only
  split <;> simp

@[simp] theorem State.controlBeat_frame (s : State) (ob : Nat × Beat) :
    (s.controlBeat ob).ctrlBase = s.ctrlBase ∧ (s.controlBeat ob).clkSel = s.clkSel ∧
    (s.controlBeat ob).prescaler = s.prescaler ∧ (s.controlBeat ob).remap = s.remap ∧
    (s.controlBeat ob).checker = s.checker ∧ (s.controlBeat ob).arbiter = s.arbiter ∧
    (s.controlBeat ob).pending = s.pending := by
  unfold State.controlBeat
  dsimp only
  repeat' split
  all_goals simp

@[simp] theorem State.controlBeats_frame (s : State) (l : List (Nat × Beat)) :
    (s.controlBeats l).ctrlBase = s.ctrlBase ∧ (s.controlBeats l).clkSel = s.clkSel ∧
    (s.controlBeats l).prescaler = s.prescaler ∧ (s.controlBeats l).remap = s.remap ∧
    (s.controlBeats l).checker = s.checker ∧ (s.controlBeats l).arbiter = s.arbiter ∧
    (s.controlBeats l).pending = s.pending := by
  induction l generalizing s with
  | nil => exact ⟨rfl, rfl, rfl, rfl, rfl, rfl, rfl⟩
  | cons n ns ih => rw [State.controlBeats]; simp [ih]

@[simp] theorem State.takeControl_frame (s : State) (off : Nat) (bs : List Beat) :
    (s.takeControl off bs).ctrlBase = s.ctrlBase ∧ (s.takeControl off bs).clkSel = s.clkSel ∧
    (s.takeControl off bs).prescaler = s.prescaler ∧ (s.takeControl off bs).remap = s.remap ∧
    (s.takeControl off bs).checker = s.checker ∧ (s.takeControl off bs).pending = s.pending := by
  unfold State.takeControl
  split <;> simp

@[simp] theorem State.controlWrite_frame (s : State) (p : PortId) (w : Write) :
    (s.controlWrite p w).ctrlBase = s.ctrlBase ∧ (s.controlWrite p w).clkSel = s.clkSel ∧
    (s.controlWrite p w).prescaler = s.prescaler ∧ (s.controlWrite p w).remap = s.remap ∧
    (s.controlWrite p w).checker = s.checker ∧ (s.controlWrite p w).pending = s.pending := by
  unfold State.controlWrite
  dsimp only
  split <;> (try split) <;> simp

@[simp] theorem State.landBeat_frame (s : State) (o : Nat) (b : Beat) (h : Bool) :
    (s.landBeat o b h).1.ctrlBase = s.ctrlBase ∧ (s.landBeat o b h).1.clkSel = s.clkSel ∧
    (s.landBeat o b h).1.prescaler = s.prescaler ∧ (s.landBeat o b h).1.portA = s.portA ∧
    (s.landBeat o b h).1.portS = s.portS ∧ (s.landBeat o b h).1.recipe = s.recipe ∧
    (s.landBeat o b h).1.protection = s.protection ∧ (s.landBeat o b h).1.stroke = s.stroke ∧
    (s.landBeat o b h).1.walker = s.walker ∧ (s.landBeat o b h).1.writer = s.writer ∧
    (s.landBeat o b h).1.lines = s.lines ∧ (s.landBeat o b h).1.arbiter = s.arbiter ∧
    (s.landBeat o b h).1.pending = s.pending := by
  simp [State.landBeat]

@[simp] theorem State.landBeats_frame (s : State) (o : Nat) (h : Bool) (bs : List Beat) :
    (s.landBeats o h bs).1.ctrlBase = s.ctrlBase ∧ (s.landBeats o h bs).1.clkSel = s.clkSel ∧
    (s.landBeats o h bs).1.prescaler = s.prescaler ∧ (s.landBeats o h bs).1.portA = s.portA ∧
    (s.landBeats o h bs).1.portS = s.portS ∧ (s.landBeats o h bs).1.recipe = s.recipe ∧
    (s.landBeats o h bs).1.protection = s.protection ∧ (s.landBeats o h bs).1.stroke = s.stroke ∧
    (s.landBeats o h bs).1.walker = s.walker ∧ (s.landBeats o h bs).1.writer = s.writer ∧
    (s.landBeats o h bs).1.lines = s.lines ∧ (s.landBeats o h bs).1.arbiter = s.arbiter ∧
    (s.landBeats o h bs).1.pending = s.pending := by
  induction bs generalizing s o h with
  | nil => exact ⟨rfl, rfl, rfl, rfl, rfl, rfl, rfl, rfl, rfl, rfl, rfl, rfl, rfl⟩
  | cons n ns ih => rw [State.landBeats]; simp [ih]

@[simp] theorem State.startAcquiring_frame (s : State) :
    s.startAcquiring.ctrlBase = s.ctrlBase ∧ s.startAcquiring.clkSel = s.clkSel ∧
    s.startAcquiring.prescaler = s.prescaler ∧ s.startAcquiring.portA = s.portA ∧ s.startAcquiring.portS = s.portS ∧
    s.startAcquiring.recipe = s.recipe ∧ s.startAcquiring.protection = s.protection ∧
    s.startAcquiring.remap = s.remap ∧ s.startAcquiring.checker = s.checker ∧ s.startAcquiring.walker = s.walker ∧
    s.startAcquiring.lines = s.lines ∧ s.startAcquiring.arbiter = s.arbiter ∧ s.startAcquiring.pending = s.pending := by
  simp [State.startAcquiring]

@[simp] theorem State.setSequence_frame (s : State) (k : Nat) :
    (s.setSequence k).ctrlBase = s.ctrlBase ∧ (s.setSequence k).clkSel = s.clkSel ∧
    (s.setSequence k).prescaler = s.prescaler ∧ (s.setSequence k).portA = s.portA ∧
    (s.setSequence k).portS = s.portS ∧ (s.setSequence k).recipe = s.recipe ∧
    (s.setSequence k).protection = s.protection ∧ (s.setSequence k).checker = s.checker ∧
    (s.setSequence k).walker = s.walker ∧ (s.setSequence k).writer = s.writer ∧ (s.setSequence k).lines = s.lines ∧
    (s.setSequence k).arbiter = s.arbiter ∧ (s.setSequence k).pending = s.pending := by
  exact ⟨rfl, rfl, rfl, rfl, rfl, rfl, rfl, rfl, rfl, rfl, rfl, rfl, rfl⟩

@[simp] theorem State.haltStroke_frame (s : State) :
    s.haltStroke.ctrlBase = s.ctrlBase ∧ s.haltStroke.clkSel = s.clkSel ∧ s.haltStroke.prescaler = s.prescaler ∧
    s.haltStroke.recipe = s.recipe ∧ s.haltStroke.protection = s.protection ∧ s.haltStroke.remap = s.remap ∧
    s.haltStroke.checker = s.checker ∧ s.haltStroke.arbiter = s.arbiter ∧ s.haltStroke.pending = s.pending := by
  simp [State.haltStroke]

@[simp] theorem State.takeLanding_frame (s : State) (p : PortId) (w : Write) :
    (s.takeLanding p w).ctrlBase = s.ctrlBase ∧ (s.takeLanding p w).clkSel = s.clkSel ∧
    (s.takeLanding p w).prescaler = s.prescaler ∧ (s.takeLanding p w).recipe = s.recipe ∧
    (s.takeLanding p w).protection = s.protection ∧ (s.takeLanding p w).arbiter = s.arbiter ∧
    (s.takeLanding p w).pending = s.pending := by
  unfold State.takeLanding
  dsimp only
  repeat' split
  all_goals simp

@[simp] theorem State.landing_frame (s : State) (p : PortId) (w : Write) :
    (s.landing p w).ctrlBase = s.ctrlBase ∧ (s.landing p w).clkSel = s.clkSel ∧
    (s.landing p w).prescaler = s.prescaler ∧ (s.landing p w).recipe = s.recipe ∧
    (s.landing p w).protection = s.protection ∧ (s.landing p w).arbiter = s.arbiter ∧
    (s.landing p w).pending = s.pending := by
  unfold State.landing
  split <;> (try split) <;> simp

@[simp] theorem State.passThrough_frame (s : State) (p : PortId) (r : Request) :
    (s.passThrough p r).ctrlBase = s.ctrlBase ∧ (s.passThrough p r).clkSel = s.clkSel ∧
    (s.passThrough p r).prescaler = s.prescaler ∧ (s.passThrough p r).recipe = s.recipe ∧
    (s.passThrough p r).protection = s.protection ∧ (s.passThrough p r).stroke = s.stroke ∧
    (s.passThrough p r).remap = s.remap ∧ (s.passThrough p r).checker = s.checker ∧
    (s.passThrough p r).walker = s.walker ∧ (s.passThrough p r).writer = s.writer ∧
    (s.passThrough p r).lines = s.lines ∧ (s.passThrough p r).arbiter = s.arbiter ∧
    (s.passThrough p r).pending = s.pending := by
  unfold State.passThrough
  split <;> simp

@[simp] theorem State.classify_frame (s : State) (p : PortId) (r : Request) :
    (s.classify p r).ctrlBase = s.ctrlBase ∧ (s.classify p r).clkSel = s.clkSel ∧
    (s.classify p r).prescaler = s.prescaler ∧ (s.classify p r).pending = s.pending := by
  unfold State.classify
  repeat' split
  all_goals simp

@[simp] theorem State.handle_frame (s : State) (p : PortId) (r : Request) :
    (s.handle p r).ctrlBase = s.ctrlBase ∧ (s.handle p r).clkSel = s.clkSel ∧
    (s.handle p r).prescaler = s.prescaler ∧ (s.handle p r).pending = s.pending := by
  unfold State.handle
  split <;> simp

@[simp] theorem State.releaseHeld_frame (s : State) (p : PortId) :
    (s.releaseHeld p).ctrlBase = s.ctrlBase ∧ (s.releaseHeld p).clkSel = s.clkSel ∧
    (s.releaseHeld p).prescaler = s.prescaler ∧ (s.releaseHeld p).pending = s.pending := by
  unfold State.releaseHeld
  split <;> (try split) <;> simp

@[simp] theorem State.presentRequest_frame (s : State) (p : PortId) (r : Request) :
    (s.presentRequest p r).ctrlBase = s.ctrlBase ∧ (s.presentRequest p r).clkSel = s.clkSel ∧
    (s.presentRequest p r).prescaler = s.prescaler ∧ (s.presentRequest p r).pending = s.pending := by
  simp [State.presentRequest]

@[simp] theorem State.endWait_frame (s : State) (p : PortId) (c : WaitCause) :
    (s.endWait p c).ctrlBase = s.ctrlBase ∧ (s.endWait p c).clkSel = s.clkSel ∧
    (s.endWait p c).prescaler = s.prescaler ∧ (s.endWait p c).pending = s.pending := by
  unfold State.endWait
  split <;> (try split) <;> simp

@[simp] theorem State.endQueueWait_frame (s : State) (p : PortId) :
    (s.endQueueWait p).ctrlBase = s.ctrlBase ∧ (s.endQueueWait p).clkSel = s.clkSel ∧
    (s.endQueueWait p).prescaler = s.prescaler ∧ (s.endQueueWait p).pending = s.pending := by
  simp [State.endQueueWait]

@[simp] theorem State.endQueueWaits_frame (s : State) :
    s.endQueueWaits.ctrlBase = s.ctrlBase ∧ s.endQueueWaits.clkSel = s.clkSel ∧
    s.endQueueWaits.prescaler = s.prescaler ∧ s.endQueueWaits.pending = s.pending := by
  simp [State.endQueueWaits]

@[simp] theorem State.takeArming_frame (s : State) :
    s.takeArming.ctrlBase = s.ctrlBase ∧ s.takeArming.clkSel = s.clkSel ∧ s.takeArming.prescaler = s.prescaler ∧
    s.takeArming.pending = s.pending := by
  simp [State.takeArming]

@[simp] theorem State.armingCheck_frame (s : State) :
    s.armingCheck.ctrlBase = s.ctrlBase ∧ s.armingCheck.clkSel = s.clkSel ∧ s.armingCheck.prescaler = s.prescaler ∧
    s.armingCheck.portA = s.portA ∧ s.armingCheck.portS = s.portS ∧ s.armingCheck.recipe = s.recipe ∧
    s.armingCheck.protection = s.protection ∧ s.armingCheck.remap = s.remap ∧ s.armingCheck.checker = s.checker ∧
    s.armingCheck.walker = s.walker ∧ s.armingCheck.arbiter = s.arbiter ∧ s.armingCheck.pending = s.pending := by
  unfold State.armingCheck
  split <;> simp

@[simp] theorem State.armSuccess_frame (s : State) :
    s.armSuccess.ctrlBase = s.ctrlBase ∧ s.armSuccess.clkSel = s.clkSel ∧ s.armSuccess.prescaler = s.prescaler ∧
    s.armSuccess.portA = s.portA ∧ s.armSuccess.portS = s.portS ∧ s.armSuccess.recipe = s.recipe ∧
    s.armSuccess.protection = s.protection ∧ s.armSuccess.lines = s.lines ∧ s.armSuccess.arbiter = s.arbiter ∧
    s.armSuccess.pending = s.pending := by
  simp [State.armSuccess]

@[simp] theorem State.armingEnd_frame (s : State) :
    s.armingEnd.ctrlBase = s.ctrlBase ∧ s.armingEnd.clkSel = s.clkSel ∧ s.armingEnd.prescaler = s.prescaler ∧
    s.armingEnd.portA = s.portA ∧ s.armingEnd.portS = s.portS ∧ s.armingEnd.recipe = s.recipe ∧
    s.armingEnd.protection = s.protection ∧ s.armingEnd.arbiter = s.arbiter ∧ s.armingEnd.pending = s.pending := by
  unfold State.armingEnd
  split <;> simp

@[simp] theorem State.armExpiry_frame (s : State) :
    s.armExpiry.ctrlBase = s.ctrlBase ∧ s.armExpiry.clkSel = s.clkSel ∧ s.armExpiry.prescaler = s.prescaler ∧
    s.armExpiry.recipe = s.recipe ∧ s.armExpiry.protection = s.protection ∧ s.armExpiry.remap = s.remap ∧
    s.armExpiry.checker = s.checker ∧ s.armExpiry.arbiter = s.arbiter ∧ s.armExpiry.pending = s.pending := by
  unfold State.armExpiry
  split <;> simp

@[simp] theorem State.stallExpiry_frame (s : State) :
    s.stallExpiry.ctrlBase = s.ctrlBase ∧ s.stallExpiry.clkSel = s.clkSel ∧ s.stallExpiry.prescaler = s.prescaler ∧
    s.stallExpiry.recipe = s.recipe ∧ s.stallExpiry.protection = s.protection ∧ s.stallExpiry.remap = s.remap ∧
    s.stallExpiry.checker = s.checker ∧ s.stallExpiry.arbiter = s.arbiter ∧ s.stallExpiry.pending = s.pending := by
  unfold State.stallExpiry
  split <;> simp

@[simp] theorem State.walkOn_frame (s : State) (c : Nat) :
    (s.walkOn c).ctrlBase = s.ctrlBase ∧ (s.walkOn c).clkSel = s.clkSel ∧ (s.walkOn c).prescaler = s.prescaler ∧
    (s.walkOn c).portA = s.portA ∧ (s.walkOn c).portS = s.portS ∧ (s.walkOn c).recipe = s.recipe ∧
    (s.walkOn c).protection = s.protection ∧ (s.walkOn c).stroke = s.stroke ∧ (s.walkOn c).remap = s.remap ∧
    (s.walkOn c).checker = s.checker ∧ (s.walkOn c).writer = s.writer ∧ (s.walkOn c).lines = s.lines ∧
    (s.walkOn c).arbiter = s.arbiter ∧ (s.walkOn c).pending = s.pending := by
  exact ⟨rfl, rfl, rfl, rfl, rfl, rfl, rfl, rfl, rfl, rfl, rfl, rfl, rfl, rfl⟩

@[simp] theorem State.pauseWalk_frame (s : State) (c : Nat) (h : HeldRecord) :
    (s.pauseWalk c h).ctrlBase = s.ctrlBase ∧ (s.pauseWalk c h).clkSel = s.clkSel ∧
    (s.pauseWalk c h).prescaler = s.prescaler ∧ (s.pauseWalk c h).portA = s.portA ∧
    (s.pauseWalk c h).portS = s.portS ∧ (s.pauseWalk c h).recipe = s.recipe ∧
    (s.pauseWalk c h).protection = s.protection ∧ (s.pauseWalk c h).stroke = s.stroke ∧
    (s.pauseWalk c h).remap = s.remap ∧ (s.pauseWalk c h).checker = s.checker ∧ (s.pauseWalk c h).writer = s.writer ∧
    (s.pauseWalk c h).lines = s.lines ∧ (s.pauseWalk c h).arbiter = s.arbiter ∧ (s.pauseWalk c h).pending = s.pending := by
  exact ⟨rfl, rfl, rfl, rfl, rfl, rfl, rfl, rfl, rfl, rfl, rfl, rfl, rfl, rfl⟩

@[simp] theorem State.queuePin_frame (s : State) (c : Nat) :
    (s.queuePin c).ctrlBase = s.ctrlBase ∧ (s.queuePin c).clkSel = s.clkSel ∧
    (s.queuePin c).prescaler = s.prescaler ∧ (s.queuePin c).portA = s.portA ∧ (s.queuePin c).portS = s.portS ∧
    (s.queuePin c).recipe = s.recipe ∧ (s.queuePin c).protection = s.protection ∧ (s.queuePin c).stroke = s.stroke ∧
    (s.queuePin c).remap = s.remap ∧ (s.queuePin c).checker = s.checker ∧ (s.queuePin c).arbiter = s.arbiter ∧
    (s.queuePin c).pending = s.pending := by
  simp [State.queuePin]

@[simp] theorem State.omitPin_frame (s : State) (c : Nat) :
    (s.omitPin c).ctrlBase = s.ctrlBase ∧ (s.omitPin c).clkSel = s.clkSel ∧ (s.omitPin c).prescaler = s.prescaler ∧
    (s.omitPin c).portA = s.portA ∧ (s.omitPin c).portS = s.portS ∧ (s.omitPin c).recipe = s.recipe ∧
    (s.omitPin c).protection = s.protection ∧ (s.omitPin c).stroke = s.stroke ∧ (s.omitPin c).remap = s.remap ∧
    (s.omitPin c).checker = s.checker ∧ (s.omitPin c).writer = s.writer ∧ (s.omitPin c).lines = s.lines ∧
    (s.omitPin c).arbiter = s.arbiter ∧ (s.omitPin c).pending = s.pending := by
  exact ⟨rfl, rfl, rfl, rfl, rfl, rfl, rfl, rfl, rfl, rfl, rfl, rfl, rfl, rfl⟩

@[simp] theorem State.reportPin_frame (s : State) (c : Nat) :
    (s.reportPin c).ctrlBase = s.ctrlBase ∧ (s.reportPin c).clkSel = s.clkSel ∧
    (s.reportPin c).prescaler = s.prescaler ∧ (s.reportPin c).portA = s.portA ∧ (s.reportPin c).portS = s.portS ∧
    (s.reportPin c).recipe = s.recipe ∧ (s.reportPin c).protection = s.protection ∧
    (s.reportPin c).stroke = s.stroke ∧ (s.reportPin c).remap = s.remap ∧ (s.reportPin c).checker = s.checker ∧
    (s.reportPin c).arbiter = s.arbiter ∧ (s.reportPin c).pending = s.pending := by
  unfold State.reportPin
  repeat' split
  all_goals simp

@[simp] theorem State.markReject_frame (s : State) (v : SlotVerdict) :
    (s.markReject v).ctrlBase = s.ctrlBase ∧ (s.markReject v).clkSel = s.clkSel ∧
    (s.markReject v).prescaler = s.prescaler ∧ (s.markReject v).portA = s.portA ∧ (s.markReject v).portS = s.portS ∧
    (s.markReject v).recipe = s.recipe ∧ (s.markReject v).protection = s.protection ∧
    (s.markReject v).stroke = s.stroke ∧ (s.markReject v).remap = s.remap ∧ (s.markReject v).checker = s.checker ∧
    (s.markReject v).writer = s.writer ∧ (s.markReject v).lines = s.lines ∧ (s.markReject v).arbiter = s.arbiter ∧
    (s.markReject v).pending = s.pending := by
  unfold State.markReject
  split <;> exact ⟨rfl, rfl, rfl, rfl, rfl, rfl, rfl, rfl, rfl, rfl, rfl, rfl, rfl, rfl⟩

@[simp] theorem State.nextSlot_frame (s : State) :
    s.nextSlot.ctrlBase = s.ctrlBase ∧ s.nextSlot.clkSel = s.clkSel ∧ s.nextSlot.prescaler = s.prescaler ∧
    s.nextSlot.portA = s.portA ∧ s.nextSlot.portS = s.portS ∧ s.nextSlot.recipe = s.recipe ∧
    s.nextSlot.protection = s.protection ∧ s.nextSlot.remap = s.remap ∧ s.nextSlot.checker = s.checker ∧
    s.nextSlot.arbiter = s.arbiter ∧ s.nextSlot.pending = s.pending := by
  unfold State.nextSlot
  repeat' split
  all_goals simp

@[simp] theorem State.queueSlot_frame (s : State) :
    s.queueSlot.ctrlBase = s.ctrlBase ∧ s.queueSlot.clkSel = s.clkSel ∧ s.queueSlot.prescaler = s.prescaler ∧
    s.queueSlot.portA = s.portA ∧ s.queueSlot.portS = s.portS ∧ s.queueSlot.recipe = s.recipe ∧
    s.queueSlot.protection = s.protection ∧ s.queueSlot.remap = s.remap ∧ s.queueSlot.checker = s.checker ∧
    s.queueSlot.arbiter = s.arbiter ∧ s.queueSlot.pending = s.pending := by
  simp [State.queueSlot]

@[simp] theorem State.reportSlot_frame (s : State) :
    s.reportSlot.ctrlBase = s.ctrlBase ∧ s.reportSlot.clkSel = s.clkSel ∧ s.reportSlot.prescaler = s.prescaler ∧
    s.reportSlot.portA = s.portA ∧ s.reportSlot.portS = s.portS ∧ s.reportSlot.recipe = s.recipe ∧
    s.reportSlot.protection = s.protection ∧ s.reportSlot.remap = s.remap ∧ s.reportSlot.checker = s.checker ∧
    s.reportSlot.arbiter = s.arbiter ∧ s.reportSlot.pending = s.pending := by
  unfold State.reportSlot
  split <;> simp

@[simp] theorem State.walkStep_frame (s : State) :
    s.walkStep.ctrlBase = s.ctrlBase ∧ s.walkStep.clkSel = s.clkSel ∧ s.walkStep.prescaler = s.prescaler ∧
    s.walkStep.portA = s.portA ∧ s.walkStep.portS = s.portS ∧ s.walkStep.recipe = s.recipe ∧
    s.walkStep.protection = s.protection ∧ s.walkStep.remap = s.remap ∧ s.walkStep.arbiter = s.arbiter ∧
    s.walkStep.pending = s.pending := by
  unfold State.walkStep
  split <;> simp

@[simp] theorem State.resumeWalk_frame (s : State) :
    s.resumeWalk.ctrlBase = s.ctrlBase ∧ s.resumeWalk.clkSel = s.clkSel ∧ s.resumeWalk.prescaler = s.prescaler ∧
    s.resumeWalk.portA = s.portA ∧ s.resumeWalk.portS = s.portS ∧ s.resumeWalk.recipe = s.recipe ∧
    s.resumeWalk.protection = s.protection ∧ s.resumeWalk.remap = s.remap ∧ s.resumeWalk.checker = s.checker ∧
    s.resumeWalk.arbiter = s.arbiter ∧ s.resumeWalk.pending = s.pending := by
  unfold State.resumeWalk
  repeat' split
  all_goals simp

@[simp] theorem State.issue_frame (s : State) (k : TransactionKind) (r : Request) :
    (s.issue k r).ctrlBase = s.ctrlBase ∧ (s.issue k r).clkSel = s.clkSel ∧ (s.issue k r).prescaler = s.prescaler ∧
    (s.issue k r).portA = s.portA ∧ (s.issue k r).portS = s.portS ∧ (s.issue k r).recipe = s.recipe ∧
    (s.issue k r).protection = s.protection ∧ (s.issue k r).stroke = s.stroke ∧ (s.issue k r).remap = s.remap ∧
    (s.issue k r).checker = s.checker ∧ (s.issue k r).walker = s.walker ∧ (s.issue k r).writer = s.writer ∧
    (s.issue k r).lines = s.lines ∧ (s.issue k r).pending = s.pending := by
  exact ⟨rfl, rfl, rfl, rfl, rfl, rfl, rfl, rfl, rfl, rfl, rfl, rfl, rfl, rfl⟩

@[simp] theorem State.issuePort_frame (s : State) (p : PortId) :
    (s.issuePort p).ctrlBase = s.ctrlBase ∧ (s.issuePort p).clkSel = s.clkSel ∧
    (s.issuePort p).prescaler = s.prescaler ∧ (s.issuePort p).recipe = s.recipe ∧
    (s.issuePort p).protection = s.protection ∧ (s.issuePort p).stroke = s.stroke ∧ (s.issuePort p).remap = s.remap ∧
    (s.issuePort p).checker = s.checker ∧ (s.issuePort p).walker = s.walker ∧ (s.issuePort p).writer = s.writer ∧
    (s.issuePort p).lines = s.lines ∧ (s.issuePort p).pending = s.pending := by
  unfold State.issuePort
  split <;> simp

@[simp] theorem State.issueBeat_frame (s : State) :
    s.issueBeat.ctrlBase = s.ctrlBase ∧ s.issueBeat.clkSel = s.clkSel ∧ s.issueBeat.prescaler = s.prescaler ∧
    s.issueBeat.portA = s.portA ∧ s.issueBeat.portS = s.portS ∧ s.issueBeat.recipe = s.recipe ∧
    s.issueBeat.protection = s.protection ∧ s.issueBeat.stroke = s.stroke ∧ s.issueBeat.checker = s.checker ∧
    s.issueBeat.walker = s.walker ∧ s.issueBeat.writer = s.writer ∧ s.issueBeat.lines = s.lines ∧
    s.issueBeat.pending = s.pending := by
  unfold State.issueBeat
  split <;> simp

@[simp] theorem State.headIssued_frame (s : State) :
    s.headIssued.ctrlBase = s.ctrlBase ∧ s.headIssued.clkSel = s.clkSel ∧ s.headIssued.prescaler = s.prescaler ∧
    s.headIssued.portA = s.portA ∧ s.headIssued.portS = s.portS ∧ s.headIssued.recipe = s.recipe ∧
    s.headIssued.protection = s.protection ∧ s.headIssued.stroke = s.stroke ∧ s.headIssued.remap = s.remap ∧
    s.headIssued.checker = s.checker ∧ s.headIssued.lines = s.lines ∧ s.headIssued.arbiter = s.arbiter ∧
    s.headIssued.pending = s.pending := by
  unfold State.headIssued
  split <;> exact ⟨rfl, rfl, rfl, rfl, rfl, rfl, rfl, rfl, rfl, rfl, rfl, rfl, rfl⟩

@[simp] theorem State.issueRecord_frame (s : State) :
    s.issueRecord.ctrlBase = s.ctrlBase ∧ s.issueRecord.clkSel = s.clkSel ∧ s.issueRecord.prescaler = s.prescaler ∧
    s.issueRecord.portA = s.portA ∧ s.issueRecord.portS = s.portS ∧ s.issueRecord.recipe = s.recipe ∧
    s.issueRecord.protection = s.protection ∧ s.issueRecord.stroke = s.stroke ∧ s.issueRecord.remap = s.remap ∧
    s.issueRecord.checker = s.checker ∧ s.issueRecord.lines = s.lines ∧ s.issueRecord.pending = s.pending := by
  unfold State.issueRecord
  split <;> simp

@[simp] theorem State.issueStatus_frame (s : State) :
    s.issueStatus.ctrlBase = s.ctrlBase ∧ s.issueStatus.clkSel = s.clkSel ∧ s.issueStatus.prescaler = s.prescaler ∧
    s.issueStatus.portA = s.portA ∧ s.issueStatus.portS = s.portS ∧ s.issueStatus.recipe = s.recipe ∧
    s.issueStatus.protection = s.protection ∧ s.issueStatus.stroke = s.stroke ∧ s.issueStatus.remap = s.remap ∧
    s.issueStatus.checker = s.checker ∧ s.issueStatus.walker = s.walker ∧ s.issueStatus.lines = s.lines ∧
    s.issueStatus.pending = s.pending := by
  simp [State.issueStatus]

@[simp] theorem State.issueLoad_frame (s : State) :
    s.issueLoad.ctrlBase = s.ctrlBase ∧ s.issueLoad.clkSel = s.clkSel ∧ s.issueLoad.prescaler = s.prescaler ∧
    s.issueLoad.portA = s.portA ∧ s.issueLoad.portS = s.portS ∧ s.issueLoad.recipe = s.recipe ∧
    s.issueLoad.protection = s.protection ∧ s.issueLoad.stroke = s.stroke ∧ s.issueLoad.remap = s.remap ∧
    s.issueLoad.checker = s.checker ∧ s.issueLoad.walker = s.walker ∧ s.issueLoad.lines = s.lines ∧
    s.issueLoad.pending = s.pending := by
  simp [State.issueLoad]

@[simp] theorem State.issueReport_frame (s : State) :
    s.issueReport.ctrlBase = s.ctrlBase ∧ s.issueReport.clkSel = s.clkSel ∧ s.issueReport.prescaler = s.prescaler ∧
    s.issueReport.portA = s.portA ∧ s.issueReport.portS = s.portS ∧ s.issueReport.recipe = s.recipe ∧
    s.issueReport.protection = s.protection ∧ s.issueReport.stroke = s.stroke ∧ s.issueReport.remap = s.remap ∧
    s.issueReport.checker = s.checker ∧ s.issueReport.lines = s.lines ∧ s.issueReport.pending = s.pending := by
  unfold State.issueReport
  split <;> simp

@[simp] theorem State.grantTo_frame (s : State) (c : Claimant) :
    (s.grantTo c).ctrlBase = s.ctrlBase ∧ (s.grantTo c).clkSel = s.clkSel ∧ (s.grantTo c).prescaler = s.prescaler ∧
    (s.grantTo c).recipe = s.recipe ∧ (s.grantTo c).protection = s.protection ∧ (s.grantTo c).stroke = s.stroke ∧
    (s.grantTo c).checker = s.checker ∧ (s.grantTo c).lines = s.lines ∧ (s.grantTo c).pending = s.pending := by
  unfold State.grantTo
  cases c <;> simp

@[simp] theorem State.grant_frame (s : State) :
    s.grant.ctrlBase = s.ctrlBase ∧ s.grant.clkSel = s.clkSel ∧ s.grant.prescaler = s.prescaler ∧
    s.grant.recipe = s.recipe ∧ s.grant.protection = s.protection ∧ s.grant.stroke = s.stroke ∧
    s.grant.checker = s.checker ∧ s.grant.lines = s.lines ∧ s.grant.pending = s.pending := by
  unfold State.grant
  repeat' split
  all_goals simp

@[simp] theorem State.completionFlags_frame (s : State) (r : Record) (okay : Bool) :
    (s.completionFlags r okay).ctrlBase = s.ctrlBase ∧ (s.completionFlags r okay).clkSel = s.clkSel ∧
    (s.completionFlags r okay).prescaler = s.prescaler ∧ (s.completionFlags r okay).portA = s.portA ∧
    (s.completionFlags r okay).portS = s.portS ∧ (s.completionFlags r okay).recipe = s.recipe ∧
    (s.completionFlags r okay).protection = s.protection ∧ (s.completionFlags r okay).stroke = s.stroke ∧
    (s.completionFlags r okay).remap = s.remap ∧ (s.completionFlags r okay).checker = s.checker ∧
    (s.completionFlags r okay).walker = s.walker ∧ (s.completionFlags r okay).arbiter = s.arbiter ∧
    (s.completionFlags r okay).pending = s.pending := by
  unfold State.completionFlags
  dsimp only
  repeat' split
  all_goals simp

@[simp] theorem State.memoryError_frame (s : State) (a : Word) :
    (s.memoryError a).ctrlBase = s.ctrlBase ∧ (s.memoryError a).clkSel = s.clkSel ∧
    (s.memoryError a).prescaler = s.prescaler ∧ (s.memoryError a).portA = s.portA ∧
    (s.memoryError a).portS = s.portS ∧ (s.memoryError a).recipe = s.recipe ∧
    (s.memoryError a).protection = s.protection ∧ (s.memoryError a).stroke = s.stroke ∧
    (s.memoryError a).remap = s.remap ∧ (s.memoryError a).checker = s.checker ∧ (s.memoryError a).walker = s.walker ∧
    (s.memoryError a).lines = s.lines ∧ (s.memoryError a).arbiter = s.arbiter ∧ (s.memoryError a).pending = s.pending := by
  simp [State.memoryError]

@[simp] theorem State.advanceProducer_frame (s : State) :
    s.advanceProducer.ctrlBase = s.ctrlBase ∧ s.advanceProducer.clkSel = s.clkSel ∧
    s.advanceProducer.prescaler = s.prescaler ∧ s.advanceProducer.portA = s.portA ∧
    s.advanceProducer.portS = s.portS ∧ s.advanceProducer.recipe = s.recipe ∧
    s.advanceProducer.protection = s.protection ∧ s.advanceProducer.stroke = s.stroke ∧
    s.advanceProducer.remap = s.remap ∧ s.advanceProducer.checker = s.checker ∧ s.advanceProducer.walker = s.walker ∧
    s.advanceProducer.lines = s.lines ∧ s.advanceProducer.arbiter = s.arbiter ∧ s.advanceProducer.pending = s.pending := by
  exact ⟨rfl, rfl, rfl, rfl, rfl, rfl, rfl, rfl, rfl, rfl, rfl, rfl, rfl, rfl⟩

@[simp] theorem State.endReporting_frame (s : State) (r : Record) :
    (s.endReporting r).ctrlBase = s.ctrlBase ∧ (s.endReporting r).clkSel = s.clkSel ∧
    (s.endReporting r).prescaler = s.prescaler ∧ (s.endReporting r).portA = s.portA ∧
    (s.endReporting r).portS = s.portS ∧ (s.endReporting r).recipe = s.recipe ∧
    (s.endReporting r).protection = s.protection ∧ (s.endReporting r).remap = s.remap ∧
    (s.endReporting r).checker = s.checker ∧ (s.endReporting r).walker = s.walker ∧
    (s.endReporting r).lines = s.lines ∧ (s.endReporting r).arbiter = s.arbiter ∧
    (s.endReporting r).pending = s.pending := by
  unfold State.endReporting
  split <;> simp

@[simp] theorem State.refillEntries_frame (s : State) :
    s.refillEntries.ctrlBase = s.ctrlBase ∧ s.refillEntries.clkSel = s.clkSel ∧
    s.refillEntries.prescaler = s.prescaler ∧ s.refillEntries.portA = s.portA ∧ s.refillEntries.portS = s.portS ∧
    s.refillEntries.recipe = s.recipe ∧ s.refillEntries.protection = s.protection ∧ s.refillEntries.remap = s.remap ∧
    s.refillEntries.checker = s.checker ∧ s.refillEntries.arbiter = s.arbiter ∧ s.refillEntries.pending = s.pending := by
  simp [State.refillEntries]

@[simp] theorem State.freeHead_frame (s : State) (a : Word) (okay adv : Bool) :
    (s.freeHead a okay adv).ctrlBase = s.ctrlBase ∧ (s.freeHead a okay adv).clkSel = s.clkSel ∧
    (s.freeHead a okay adv).prescaler = s.prescaler ∧ (s.freeHead a okay adv).portA = s.portA ∧
    (s.freeHead a okay adv).portS = s.portS ∧ (s.freeHead a okay adv).recipe = s.recipe ∧
    (s.freeHead a okay adv).protection = s.protection ∧ (s.freeHead a okay adv).remap = s.remap ∧
    (s.freeHead a okay adv).checker = s.checker ∧ (s.freeHead a okay adv).arbiter = s.arbiter ∧
    (s.freeHead a okay adv).pending = s.pending := by
  unfold State.freeHead
  dsimp only
  repeat' split
  all_goals simp

@[simp] theorem State.afterRecord_frame (s : State) (r : Record) :
    (s.afterRecord r).ctrlBase = s.ctrlBase ∧ (s.afterRecord r).clkSel = s.clkSel ∧
    (s.afterRecord r).prescaler = s.prescaler ∧ (s.afterRecord r).pending = s.pending := by
  unfold State.afterRecord
  split <;> simp

@[simp] theorem State.completeRecord_frame (s : State) (a : Word) (okay adv first : Bool) :
    (s.completeRecord a okay adv first).ctrlBase = s.ctrlBase ∧
    (s.completeRecord a okay adv first).clkSel = s.clkSel ∧
    (s.completeRecord a okay adv first).prescaler = s.prescaler ∧
    (s.completeRecord a okay adv first).pending = s.pending := by
  unfold State.completeRecord
  dsimp only
  repeat' split
  all_goals simp

@[simp] theorem State.popAnswered_frame (s : State) :
    s.popAnswered.ctrlBase = s.ctrlBase ∧ s.popAnswered.clkSel = s.clkSel ∧ s.popAnswered.prescaler = s.prescaler ∧
    s.popAnswered.portA = s.portA ∧ s.popAnswered.portS = s.portS ∧ s.popAnswered.recipe = s.recipe ∧
    s.popAnswered.protection = s.protection ∧ s.popAnswered.stroke = s.stroke ∧ s.popAnswered.remap = s.remap ∧
    s.popAnswered.checker = s.checker ∧ s.popAnswered.walker = s.walker ∧ s.popAnswered.writer = s.writer ∧
    s.popAnswered.lines = s.lines ∧ s.popAnswered.pending = s.pending := by
  exact ⟨rfl, rfl, rfl, rfl, rfl, rfl, rfl, rfl, rfl, rfl, rfl, rfl, rfl, rfl⟩

@[simp] theorem State.answerPass_frame (s : State) (p : PortId) (okay : Bool) (data : LineData) :
    (s.answerPass p okay data).ctrlBase = s.ctrlBase ∧ (s.answerPass p okay data).clkSel = s.clkSel ∧
    (s.answerPass p okay data).prescaler = s.prescaler ∧ (s.answerPass p okay data).recipe = s.recipe ∧
    (s.answerPass p okay data).protection = s.protection ∧ (s.answerPass p okay data).stroke = s.stroke ∧
    (s.answerPass p okay data).remap = s.remap ∧ (s.answerPass p okay data).checker = s.checker ∧
    (s.answerPass p okay data).walker = s.walker ∧ (s.answerPass p okay data).writer = s.writer ∧
    (s.answerPass p okay data).lines = s.lines ∧ (s.answerPass p okay data).arbiter = s.arbiter ∧
    (s.answerPass p okay data).pending = s.pending := by
  unfold State.answerPass
  split <;> simp

@[simp] theorem State.beatAnswered_frame (s : State) (okay : Bool) :
    (s.beatAnswered okay).ctrlBase = s.ctrlBase ∧ (s.beatAnswered okay).clkSel = s.clkSel ∧
    (s.beatAnswered okay).prescaler = s.prescaler ∧ (s.beatAnswered okay).portA = s.portA ∧
    (s.beatAnswered okay).portS = s.portS ∧ (s.beatAnswered okay).recipe = s.recipe ∧
    (s.beatAnswered okay).protection = s.protection ∧ (s.beatAnswered okay).checker = s.checker ∧
    (s.beatAnswered okay).walker = s.walker ∧ (s.beatAnswered okay).arbiter = s.arbiter ∧
    (s.beatAnswered okay).pending = s.pending := by
  unfold State.beatAnswered
  dsimp only
  repeat' split
  all_goals simp

@[simp] theorem State.completeStatus_frame (s : State) (okay : Bool) :
    (s.completeStatus okay).ctrlBase = s.ctrlBase ∧ (s.completeStatus okay).clkSel = s.clkSel ∧
    (s.completeStatus okay).prescaler = s.prescaler ∧ (s.completeStatus okay).portA = s.portA ∧
    (s.completeStatus okay).portS = s.portS ∧ (s.completeStatus okay).recipe = s.recipe ∧
    (s.completeStatus okay).protection = s.protection ∧ (s.completeStatus okay).remap = s.remap ∧
    (s.completeStatus okay).checker = s.checker ∧ (s.completeStatus okay).walker = s.walker ∧
    (s.completeStatus okay).arbiter = s.arbiter ∧ (s.completeStatus okay).pending = s.pending := by
  unfold State.completeStatus
  dsimp only
  split <;> simp

@[simp] theorem State.storeLine_frame (s : State) (line : Nat) (ws : List Word) :
    (s.storeLine line ws).ctrlBase = s.ctrlBase ∧ (s.storeLine line ws).clkSel = s.clkSel ∧
    (s.storeLine line ws).prescaler = s.prescaler ∧ (s.storeLine line ws).portA = s.portA ∧
    (s.storeLine line ws).portS = s.portS ∧ (s.storeLine line ws).protection = s.protection ∧
    (s.storeLine line ws).stroke = s.stroke ∧ (s.storeLine line ws).remap = s.remap ∧
    (s.storeLine line ws).checker = s.checker ∧ (s.storeLine line ws).walker = s.walker ∧
    (s.storeLine line ws).lines = s.lines ∧ (s.storeLine line ws).arbiter = s.arbiter ∧
    (s.storeLine line ws).pending = s.pending := by
  unfold State.storeLine
  dsimp only
  split <;> simp

@[simp] theorem State.endLoad_frame (s : State) :
    s.endLoad.ctrlBase = s.ctrlBase ∧ s.endLoad.clkSel = s.clkSel ∧ s.endLoad.prescaler = s.prescaler ∧
    s.endLoad.portA = s.portA ∧ s.endLoad.portS = s.portS ∧ s.endLoad.recipe = s.recipe ∧
    s.endLoad.protection = s.protection ∧ s.endLoad.remap = s.remap ∧ s.endLoad.checker = s.checker ∧
    s.endLoad.walker = s.walker ∧ s.endLoad.arbiter = s.arbiter ∧ s.endLoad.pending = s.pending := by
  unfold State.endLoad
  split <;> simp

@[simp] theorem State.loadAnswer_frame (s : State) (line : Nat) (okay : Bool) (data : LineData) :
    (s.loadAnswer line okay data).ctrlBase = s.ctrlBase ∧ (s.loadAnswer line okay data).clkSel = s.clkSel ∧
    (s.loadAnswer line okay data).prescaler = s.prescaler ∧ (s.loadAnswer line okay data).portA = s.portA ∧
    (s.loadAnswer line okay data).portS = s.portS ∧ (s.loadAnswer line okay data).protection = s.protection ∧
    (s.loadAnswer line okay data).remap = s.remap ∧ (s.loadAnswer line okay data).checker = s.checker ∧
    (s.loadAnswer line okay data).walker = s.walker ∧ (s.loadAnswer line okay data).arbiter = s.arbiter ∧
    (s.loadAnswer line okay data).pending = s.pending := by
  unfold State.loadAnswer
  dsimp only
  split <;> simp

@[simp] theorem State.pressAsserted_frame (s : State) :
    s.pressAsserted.ctrlBase = s.ctrlBase ∧ s.pressAsserted.clkSel = s.clkSel ∧
    s.pressAsserted.prescaler = s.prescaler ∧ s.pressAsserted.recipe = s.recipe ∧
    s.pressAsserted.protection = s.protection ∧ s.pressAsserted.remap = s.remap ∧
    s.pressAsserted.checker = s.checker ∧ s.pressAsserted.arbiter = s.arbiter ∧ s.pressAsserted.pending = s.pending := by
  unfold State.pressAsserted
  split <;> simp

@[simp] theorem State.pressLevel_frame (s : State) (v : Bool) :
    (s.pressLevel v).ctrlBase = s.ctrlBase ∧ (s.pressLevel v).clkSel = s.clkSel ∧
    (s.pressLevel v).prescaler = s.prescaler ∧ (s.pressLevel v).recipe = s.recipe ∧
    (s.pressLevel v).protection = s.protection ∧ (s.pressLevel v).remap = s.remap ∧
    (s.pressLevel v).checker = s.checker ∧ (s.pressLevel v).arbiter = s.arbiter ∧ (s.pressLevel v).pending = s.pending := by
  unfold State.pressLevel
  dsimp only
  split <;> simp

@[simp] theorem State.timebase_frame (s : State) :
    s.timebase.ctrlBase = s.ctrlBase ∧ s.timebase.clkSel = s.clkSel ∧ s.timebase.prescaler = s.prescaler ∧
    s.timebase.recipe = s.recipe ∧ s.timebase.protection = s.protection ∧ s.timebase.remap = s.remap ∧
    s.timebase.checker = s.checker ∧ s.timebase.arbiter = s.arbiter ∧ s.timebase.pending = s.pending := by
  unfold State.timebase
  dsimp only
  split <;> (try split) <;> simp

@[simp] theorem State.clock_frame (s : State) :
    s.clock.ctrlBase = s.ctrlBase ∧ s.clock.clkSel = s.clkSel ∧ s.clock.recipe = s.recipe ∧
    s.clock.protection = s.protection ∧ s.clock.remap = s.remap ∧ s.clock.checker = s.checker ∧
    s.clock.arbiter = s.arbiter ∧ s.clock.pending = s.pending := by
  unfold State.clock
  split <;> simp

end Sys2Proof.Machine
end

