-- ==== Sys2Proof/Laws/State.lean ====
section
/-! SUPPORT. What each elementary update writes, field by field: the other half of Laws/Frames.lean. -/

namespace Sys2Proof.Machine

@[simp] theorem State.markDirty_writer (s : State) : s.markDirty.writer = { s.writer with dirty := true } := rfl

@[simp] theorem State.dirtyIf_writer (s : State) (b : Bool) :
    (s.dirtyIf b).writer = { s.writer with dirty := s.writer.dirty || b } := by
  cases b <;> simp [State.dirtyIf]

/-- The dirty flag of a state replaced by its or with a condition. -/
theorem State.dirtyIf_eq (s : State) (b : Bool) :
    s.dirtyIf b = { s with writer := { s.writer with dirty := s.writer.dirty || b } } := by
  cases b <;> simp [State.dirtyIf, State.markDirty]

@[simp] theorem State.setFlag_lines (s : State) (f : EventFlag) :
    (s.setFlag f).lines = { s.lines with flags := s.lines.flags ||| BitVec.twoPow 9 f.bit } := by
  unfold State.setFlag
  split
  · rename_i h
    have h2 : s.lines.flags ||| BitVec.twoPow 9 f.bit = s.lines.flags := by
      unfold State.flagSet at h
      cases f <;> simp only [EventFlag.bit] at h ⊢ <;> (generalize s.lines.flags = x at *; revert h; revert x; decide)
    rw [h2]
  · rfl

@[simp] theorem State.setFlag_writer (s : State) (f : EventFlag) :
    (s.setFlag f).writer = { s.writer with dirty := s.writer.dirty || !s.flagSet f } := by
  unfold State.setFlag
  split <;> simp_all

@[simp] theorem State.setHaltLatch_lines (s : State) (v : Bool) :
    (s.setHaltLatch v).lines = { s.lines with haltLatch := v } := by simp [State.setHaltLatch]

@[simp] theorem State.setHaltLatch_writer (s : State) (v : Bool) :
    (s.setHaltLatch v).writer = { s.writer with dirty := s.writer.dirty || s.lines.haltLatch != v } := by
  simp [State.setHaltLatch]

@[simp] theorem State.setForce_lines (s : State) (v : ForceState) :
    (s.setForce v).lines = { s.lines with force := v } := by simp [State.setForce]

@[simp] theorem State.setForce_writer (s : State) (v : ForceState) :
    (s.setForce v).writer = { s.writer with dirty := s.writer.dirty || s.lines.force != v } := by simp [State.setForce]

@[simp] theorem State.setProtection_protection (s : State) (v : BitVec 4) : (s.setProtection v).protection = v := by
  simp [State.setProtection]

@[simp] theorem State.setProtection_writer (s : State) (v : BitVec 4) :
    (s.setProtection v).writer = { s.writer with dirty := s.writer.dirty || s.protection != v } := by
  simp [State.setProtection]

@[simp] theorem State.enter_stroke (s : State) (st : StrokeState) :
    (s.enter st).stroke = { s.stroke with state := st } := by simp [State.enter]

@[simp] theorem State.enter_writer (s : State) (st : StrokeState) :
    (s.enter st).writer = { s.writer with dirty := s.writer.dirty || s.stroke.state != st } := by simp [State.enter]

@[simp] theorem State.beginArming_stroke (s : State) (p : Plan) :
    (s.beginArming p).stroke = { s.stroke with state := .arming, latched := p, walk := .check 1 } := rfl

@[simp] theorem State.beginArming_writer (s : State) (p : Plan) :
    (s.beginArming p).writer = { s.writer with dirty := true } := rfl

@[simp] theorem State.stopWalker_walker (s : State) :
    s.stopWalker.walker = { s.walker with state := .stopped, held := none } := rfl

@[simp] theorem State.setOutcome_stroke (s : State) (o : StrokeOutcome) :
    (s.setOutcome o).stroke = { s.stroke with outcome := some o, armTimer := none, stallTimer := none } := rfl

@[simp] theorem State.startAcquiring_stroke (s : State) :
    s.startAcquiring.stroke = { s.stroke with
      state := .acquiring, armTimer := none, stallTimer := some (Plan.stallLimit s.stroke.latched) } := by
  simp [State.startAcquiring]

@[simp] theorem State.setSequence_remap (s : State) (k : Nat) :
    (s.setSequence k).remap = { s.remap with sequence := k } := rfl

@[simp] theorem State.setSequence_stroke (s : State) (k : Nat) :
    (s.setSequence k).stroke = { s.stroke with
      samplesTaken := k, stepsTaken := stepsAfter s.stroke.latched s.cells k } := rfl

@[simp] theorem State.walkOn_walker (s : State) (c : Nat) :
    (s.walkOn c).walker = { s.walker with state := .walking, cursorCell := c, held := none } := rfl

@[simp] theorem State.pauseWalk_walker (s : State) (c : Nat) (h : HeldRecord) :
    (s.pauseWalk c h).walker = { s.walker with state := .paused, cursorCell := c, held := some h } := rfl

@[simp] theorem State.omitPin_walker (s : State) (c : Nat) :
    (s.omitPin c).walker = { s.walker with
      state := .walking, cursorCell := c + 1, held := none, omitted := s.walker.omitted + 1 } := rfl

@[simp] theorem State.popAnswered_arbiter (s : State) :
    s.popAnswered.arbiter = { s.arbiter with inflight := s.arbiter.inflight.tail } := rfl

@[simp] theorem State.issue_arbiter (s : State) (k : TransactionKind) (r : Request) :
    (s.issue k r).arbiter = { s.arbiter with
      inflight := s.arbiter.inflight ++ [{ kind := k, request := r, discard := false, advances := true }] } := rfl

@[simp] theorem State.memoryError_writer (s : State) (a : Word) :
    (s.memoryError a).writer =
      { s.writer with memErrAddr := a, dirty := s.writer.dirty || a != s.writer.memErrAddr } := by
  simp [State.memoryError]

@[simp] theorem State.advanceProducer_writer (s : State) :
    s.advanceProducer.writer = { s.writer with
      producer := (s.writer.producer + 1) % s.ringCapacity
      lap := if (s.writer.producer + 1) % s.ringCapacity = 0 then !s.writer.lap else s.writer.lap } := rfl

@[simp] theorem State.resetRing_writer (s : State) :
    s.resetRing.writer = { s.writer with producer := 0, consumer := 0, lap := false, dirty := true } := rfl

@[simp] theorem State.withPending_frame (s : State) (q : List Instr) :
    (s.withPending q).ctrlBase = s.ctrlBase ∧ (s.withPending q).clkSel = s.clkSel ∧
    (s.withPending q).prescaler = s.prescaler ∧ (s.withPending q).portA = s.portA ∧
    (s.withPending q).portS = s.portS ∧ (s.withPending q).recipe = s.recipe ∧
    (s.withPending q).protection = s.protection ∧ (s.withPending q).stroke = s.stroke ∧
    (s.withPending q).remap = s.remap ∧ (s.withPending q).checker = s.checker ∧
    (s.withPending q).walker = s.walker ∧ (s.withPending q).writer = s.writer ∧
    (s.withPending q).lines = s.lines ∧ (s.withPending q).arbiter = s.arbiter ∧
    (s.withPending q).pending = q := ⟨rfl, rfl, rfl, rfl, rfl, rfl, rfl, rfl, rfl, rfl, rfl, rfl, rfl, rfl, rfl⟩

/-! ## The near ports -/

@[simp] theorem State.port_setPort_self (s : State) (p : PortId) (np : NearPort) : (s.setPort p np).port p = np := by
  cases p <;> rfl

theorem State.port_setPort_ne (s : State) (p q : PortId) (np : NearPort) (h : q ≠ p) :
    (s.setPort p np).port q = s.port q := by
  cases p <;> cases q <;> first | rfl | exact absurd rfl h

@[simp] theorem State.setPort_port (s : State) (p : PortId) : s.setPort p (s.port p) = s := by
  cases p <;> rfl

@[simp] theorem State.setPort_setPort (s : State) (p : PortId) (a b : NearPort) :
    (s.setPort p a).setPort p b = s.setPort p b := by
  cases p <;> rfl

@[simp] theorem State.port_answer_self (s : State) (p : PortId) (x : Answer) :
    (s.answer p x).port p = { s.port p with status := .free, answer := some x } := by
  simp [State.answer]

@[simp] theorem State.port_waitAt_self (s : State) (p : PortId) (r : Request) (c : WaitCause) :
    (s.waitAt p r c).port p = { s.port p with status := .waiting r c } := by
  simp [State.waitAt]

@[simp] theorem State.port_forward_self (s : State) (p : PortId) (r : Request) :
    (s.forward p r).port p = { s.port p with status := .outstanding r false } := by
  simp [State.forward]

/-- An operation that leaves both near ports alone leaves the port of any name alone. -/
theorem State.port_congr {s t : State} (hA : t.portA = s.portA) (hS : t.portS = s.portS) (p : PortId) :
    t.port p = s.port p := by
  cases p
  · exact hA
  · exact hS

end Sys2Proof.Machine
end

