-- ==== Sys2Proof/Laws/Checker.lean ====
section
/-! SUPPORT. The pin checker: what adding a fault and judging a sample do to a context, stage by stage; which contexts a state update
touches. -/

namespace Sys2Proof.Machine

/-! ## Adding a fault -/

/-- The fault set after an addition: the members before it and the new kind. -/
theorem PinContext.hasFault_addFault (x : PinContext) (k j : FaultKind) (st : Nat) :
    (x.addFault k st).hasFault j = (x.hasFault j || j == k) := by
  unfold PinContext.addFault
  split
  · rename_i h
    by_cases e : j = k
    · simp [e, h]
    · simp [e]
  · unfold PinContext.hasFault
    cases j <;> cases k <;> simp [FaultKind.code]

/-- After an addition the set is not empty. -/
theorem PinContext.addFault_faults_ne (x : PinContext) (k : FaultKind) (st : Nat) : (x.addFault k st).faults ≠ 0#9 := by
  intro h
  have := PinContext.hasFault_addFault x k k st
  rw [PinContext.hasFault, h] at this
  simp at this

/-- An addition moves the health, the set and the first fault alone (R46). -/
theorem PinContext.addFault_frame (x : PinContext) (k : FaultKind) (st : Nat) :
    x.addFault k st = { x with
      health := (x.addFault k st).health
      faults := (x.addFault k st).faults
      firstFault := (x.addFault k st).firstFault
      firstFaultStep := (x.addFault k st).firstFaultStep } := by
  unfold PinContext.addFault
  split <;> rfl

@[simp] theorem PinContext.addFault_zoneIndex (x : PinContext) (k : FaultKind) (st : Nat) :
    (x.addFault k st).zoneIndex = x.zoneIndex := by rw [PinContext.addFault_frame]

@[simp] theorem PinContext.addFault_tally (x : PinContext) (k : FaultKind) (st : Nat) :
    (x.addFault k st).tally = x.tally := by rw [PinContext.addFault_frame]

@[simp] theorem PinContext.addFault_progress (x : PinContext) (k : FaultKind) (st : Nat) :
    (x.addFault k st).progress = x.progress := by rw [PinContext.addFault_frame]

/-- A context in order stays in order through an addition (R27, R46). -/
theorem PinContext.addFault_ok (x : PinContext) (k : FaultKind) (st : Nat) (h : x.ok = true) : (x.addFault k st).ok = true := by
  by_cases hk : x.hasFault k = true
  · simpa [PinContext.addFault, hk] using h
  · have hne := PinContext.addFault_faults_ne x k st
    simp only [PinContext.ok, Bool.and_eq_true, beq_iff_eq, decide_eq_true_eq] at h ⊢
    have hb : ((x.addFault k st).faults != 0#9) = true := by simpa using hne
    rw [hb]
    simp only [PinContext.addFault, hk] at hne ⊢
    by_cases hz : x.faults = 0#9
    · simp [hz, h.2]
    · have hz' : (x.faults != 0#9) = true := by simpa using hz
      rw [hz'] at h
      simp [hz, h.2, h.1.2, h.1.1.2]

/-! ## What a context never loses (R29) -/

/-- The later context has a zone index as high, every fault of the earlier one, and is FAILED when that one is. -/
def PinContext.Grows (x y : PinContext) : Prop :=
  x.zoneIndex ≤ y.zoneIndex ∧ (∀ k, x.hasFault k = true → y.hasFault k = true) ∧ (x.health = .failed → y.health = .failed)

theorem PinContext.Grows.refl (x : PinContext) : x.Grows x := ⟨Nat.le_refl _, fun _ h => h, id⟩

theorem PinContext.Grows.trans {x y z : PinContext} (a : x.Grows y) (b : y.Grows z) : x.Grows z :=
  ⟨Nat.le_trans a.1 b.1, fun k h => b.2.1 k (a.2.1 k h), fun h => b.2.2 (a.2.2 h)⟩

/-- A context that keeps the fault set and the health, with a zone index as high. -/
theorem PinContext.Grows.of_same {x y : PinContext} (hz : x.zoneIndex ≤ y.zoneIndex) (hf : y.faults = x.faults)
    (hh : y.health = x.health) : x.Grows y :=
  ⟨hz, fun k h => by rw [PinContext.hasFault, hf]; exact h, fun h => by rw [hh]; exact h⟩

theorem PinContext.grows_addFault (x : PinContext) (k : FaultKind) (st : Nat) : x.Grows (x.addFault k st) := by
  refine ⟨by simp, fun j h => by rw [PinContext.hasFault_addFault, h]; rfl, fun h => ?_⟩
  unfold PinContext.addFault
  split
  · exact h
  · rfl

theorem Judging.grows_add (j : Judging) (k : FaultKind) (st : Nat) : j.ctx.Grows (j.add k st).ctx := by
  unfold Judging.add
  split
  · exact .refl _
  · exact PinContext.grows_addFault _ _ _

theorem Judging.grows_addIf (j : Judging) (b : Bool) (k : FaultKind) (st : Nat) : j.ctx.Grows (j.addIf b k st).ctx := by
  unfold Judging.addIf
  split
  · exact Judging.grows_add _ _ _
  · exact .refl _

theorem Judging.grows_addExit (j : Judging) (m : Memory) (n st : Nat) : j.ctx.Grows (j.addExit m n st).ctx := by
  unfold Judging.addExit
  split
  · exact Judging.grows_add _ _ _
  · exact .refl _

/-- Zone advance only raises the zone index (R34). -/
theorem grows_advanceZones (m : Memory) (n st fuel : Nat) (j : Judging) : j.ctx.Grows (advanceZones m n st fuel j).ctx := by
  induction fuel generalizing j with
  | zero => exact .refl _
  | succ fuel ih =>
    unfold advanceZones
    split
    · refine (Judging.grows_addExit j m n st).trans (PinContext.Grows.trans ?_ (ih _))
      exact .of_same (Nat.le_succ _) rfl rfl
    · exact .refl _

theorem Judging.grows_marks (j : Judging) (m : Memory) (n st : Nat) (f : Counts) : j.ctx.Grows (j.marks m n st f).ctx := by
  unfold Judging.marks
  dsimp only
  split <;> (try split) <;> exact .of_same (Nat.le_refl _) rfl rfl

theorem Judging.grows_tallyStage (j : Judging) (m : Memory) (n st : Nat) (b : Band) :
    j.ctx.Grows (j.tallyStage m n st b).ctx := by
  unfold Judging.tallyStage
  dsimp only
  split
  · refine PinContext.Grows.trans ?_ (Judging.grows_addIf _ _ _ _)
    exact .of_same (Nat.le_refl _) rfl rfl
  · split <;> exact .of_same (Nat.le_refl _) rfl rfl

theorem Judging.grows_finish (j : Judging) (m : Memory) (n st : Nat) (f : Counts) : j.ctx.Grows (j.finish m n st f).ctx :=
  .of_same (Nat.le_refl _) rfl rfl

theorem grows_judgeEarly (m : Memory) (n st : Nat) (w : Word) (x : PinContext) : x.Grows (judgeEarly m n st w x).ctx := by
  unfold judgeEarly
  dsimp only
  refine PinContext.Grows.trans
    (Judging.grows_addIf { ctx := x, newFault := false, mark := false, halting := false } (saturated w) .overrange st) ?_
  refine PinContext.Grows.trans (Judging.grows_addIf _ (decide (absoluteLimit m n < forceOf w)) .overforce st) ?_
  refine PinContext.Grows.trans (grows_advanceZones m n st 9 _) ?_
  exact .of_same (Nat.le_refl _) rfl rfl

/-- A judged sample takes nothing of a context away (R29). -/
theorem grows_judge (m : Memory) (n st : Nat) (w : Word) (x : PinContext) : x.Grows (judge m n st w x).1.ctx := by
  unfold judge
  split
  · unfold judgeOpen
    dsimp only
    exact (Judging.grows_add { ctx := x, newFault := false, mark := false, halting := false } _ _).trans
      (.of_same (Nat.le_refl _) rfl rfl)
  · dsimp only
    refine (grows_judgeEarly m n st w x).trans ?_
    split
    · unfold Judging.inZoneStages
      dsimp only
      exact (Judging.grows_marks _ _ _ _ _).trans ((Judging.grows_addIf _ _ _ _).trans
        ((Judging.grows_tallyStage _ _ _ _ _).trans (Judging.grows_finish _ _ _ _ _)))
    · exact Judging.grows_finish _ _ _ _ _

/-! ## A context in order stays in order -/

/-- The fields that `PinContext.ok` reads, kept but for a tally within its range. -/
theorem PinContext.ok_of_same {x y : PinContext} (hx : x.ok = true) (hh : y.health = x.health) (hf : y.faults = x.faults)
    (h1 : y.firstFault = x.firstFault) (h2 : y.firstFaultStep = x.firstFaultStep) (ht : y.tally ≤ 255) : y.ok = true := by
  simp only [PinContext.ok, Bool.and_eq_true, decide_eq_true_eq] at hx ⊢
  rw [hh, hf, h1, h2]
  exact ⟨hx.1, ht⟩

theorem PinContext.tally_le_of_ok {x : PinContext} (hx : x.ok = true) : x.tally ≤ 255 := by
  simp only [PinContext.ok, Bool.and_eq_true, decide_eq_true_eq] at hx
  exact hx.2

theorem Judging.ok_add (j : Judging) (k : FaultKind) (st : Nat) (h : j.ctx.ok = true) : (j.add k st).ctx.ok = true := by
  unfold Judging.add
  split
  · exact h
  · exact PinContext.addFault_ok _ _ _ h

theorem Judging.ok_addIf (j : Judging) (b : Bool) (k : FaultKind) (st : Nat) (h : j.ctx.ok = true) :
    (j.addIf b k st).ctx.ok = true := by
  unfold Judging.addIf
  split
  · exact Judging.ok_add _ _ _ h
  · exact h

theorem Judging.ok_addExit (j : Judging) (m : Memory) (n st : Nat) (h : j.ctx.ok = true) : (j.addExit m n st).ctx.ok = true := by
  unfold Judging.addExit
  split
  · exact Judging.ok_add _ _ _ h
  · exact h

theorem ok_advanceZones (m : Memory) (n st fuel : Nat) (j : Judging) (h : j.ctx.ok = true) :
    (advanceZones m n st fuel j).ctx.ok = true := by
  induction fuel generalizing j with
  | zero => exact h
  | succ fuel ih =>
    unfold advanceZones
    split
    · exact ih _ (PinContext.ok_of_same (Judging.ok_addExit j m n st h) rfl rfl rfl rfl (Nat.zero_le _))
    · exact h

theorem Judging.ok_marks (j : Judging) (m : Memory) (n st : Nat) (f : Counts) (h : j.ctx.ok = true) :
    (j.marks m n st f).ctx.ok = true := by
  have t := PinContext.tally_le_of_ok h
  unfold Judging.marks
  dsimp only
  split <;> (try split) <;> exact PinContext.ok_of_same h rfl rfl rfl rfl t

theorem Judging.ok_tallyStage (j : Judging) (m : Memory) (n st : Nat) (b : Band) (h : j.ctx.ok = true) :
    (j.tallyStage m n st b).ctx.ok = true := by
  have t := PinContext.tally_le_of_ok h
  unfold Judging.tallyStage
  dsimp only
  split
  · exact Judging.ok_addIf _ _ _ _ (PinContext.ok_of_same h rfl rfl rfl rfl (Nat.min_le_left _ _))
  · split
    · exact PinContext.ok_of_same h rfl rfl rfl rfl (Nat.le_trans (Nat.sub_le _ _) t)
    · exact h

theorem Judging.ok_finish (j : Judging) (m : Memory) (n st : Nat) (f : Counts) (h : j.ctx.ok = true) :
    (j.finish m n st f).ctx.ok = true :=
  PinContext.ok_of_same h rfl rfl rfl rfl (PinContext.tally_le_of_ok h)

/-- A judged sample leaves a context in order (R27, R42, R46). -/
theorem ok_judge (m : Memory) (n st : Nat) (w : Word) (x : PinContext) (h : x.ok = true) : (judge m n st w x).1.ctx.ok = true := by
  unfold judge
  split
  · unfold judgeOpen
    dsimp only
    have h1 := Judging.ok_add { ctx := x, newFault := false, mark := false, halting := false } .cellFault st h
    exact PinContext.ok_of_same h1 rfl rfl rfl rfl (PinContext.tally_le_of_ok h1)
  · dsimp only
    have he : (judgeEarly m n st w x).ctx.ok = true := by
      unfold judgeEarly
      dsimp only
      have h3 := ok_advanceZones m n st 9 _ (Judging.ok_addIf _ (decide (absoluteLimit m n < forceOf w)) .overforce st
        (Judging.ok_addIf { ctx := x, newFault := false, mark := false, halting := false } (saturated w) .overrange st h))
      exact PinContext.ok_of_same h3 rfl rfl rfl rfl (PinContext.tally_le_of_ok h3)
    split
    · unfold Judging.inZoneStages
      dsimp only
      exact Judging.ok_finish _ _ _ _ _ (Judging.ok_tallyStage _ _ _ _ _ (Judging.ok_addIf _ _ _ _ (Judging.ok_marks _ _ _ _ _ he)))
    · exact Judging.ok_finish _ _ _ _ _ he

/-! ## Contexts of a state -/

/-- A replaced context is the new one at its cell. -/
theorem State.pin_putPin_self (s : State) (c : Nat) (x : PinContext) (h : c < 1024) : (s.putPin c x).pin c = x := by
  unfold State.putPin State.pin
  dsimp only
  split <;> (try split) <;> simp [Vector.getD, h]

/-- Every other context stays as it was. -/
theorem State.pin_putPin_ne (s : State) (c d : Nat) (x : PinContext) (h : d ≠ c) : (s.putPin c x).pin d = s.pin d := by
  unfold State.putPin State.pin
  dsimp only
  split <;> (try split) <;> simp [Vector.getD, Ne.symm h]

/-- A cell the part does not have is UNUSED. -/
theorem State.pin_of_ge (s : State) (c : Nat) (h : 1024 ≤ c) : s.pin c = PinContext.cleared .unused := by
  unfold State.pin
  simp [Vector.getD, h]

/-- A state update that leaves the checker alone leaves every context alone. -/
theorem State.pin_congr {s t : State} (h : t.checker = s.checker) (c : Nat) : t.pin c = s.pin c := by
  unfold State.pin
  rw [h]

/-- A presented beat takes nothing away from any context (R29, R30). -/
theorem State.grows_presentBeat (s : State) (c st : Nat) (w : Word) (h : Bool) (d : Nat) :
    (s.pin d).Grows ((s.presentBeat c st w h).2.2.pin d) := by
  unfold State.presentBeat
  split
  · exact .refl _
  · dsimp only
    by_cases hd : d = c
    · subst hd
      by_cases hc : d < 1024
      · rw [State.pin_putPin_self _ _ _ hc]
        exact grows_judge _ _ _ _ _
      · rename_i hu
        rw [State.pin_of_ge s d (by omega)] at hu
        exact absurd (.inr (.inl rfl)) hu
    · rw [State.pin_putPin_ne _ _ _ _ hd]
      exact .refl _

/-- A final check takes nothing away from any context (R29, R48). -/
theorem State.grows_finalCheck (s : State) (c d : Nat) : (s.pin d).Grows ((s.finalCheck c).pin d) := by
  unfold State.finalCheck
  split
  · exact .refl _
  · split
    · by_cases hd : d = c
      · subst hd
        by_cases hc : d < 1024
        · rw [State.pin_putPin_self _ _ _ hc]
          exact PinContext.grows_addFault _ _ _
        · rw [State.pin_of_ge _ d (by omega), State.pin_of_ge _ d (by omega)]
          exact .refl _
      · rw [State.pin_putPin_ne _ _ _ _ hd]
        exact .refl _
    · exact .refl _

end Sys2Proof.Machine
end

