-- ==== Sys2Proof/Laws/Traffic.lean ====
section
/-! SUPPORT. What a near port does with a request: taken at once when it is open, held off when it is not; the region decoder's rows;
what a wait's end does. -/

namespace Sys2Proof.Machine

@[simp] theorem port_a (s : State) : s.port .a = s.portA := rfl

@[simp] theorem port_s (s : State) : s.port .s = s.portS := rfl

/-- An open port hands the request on at once. -/
theorem presentRequest_of_open {s : State} {p : PortId} (r : Request) (h : s.portOpen p) :
    s.presentRequest p r = s.handle p r := by
  obtain ⟨hf, hh, hr⟩ := h
  have e : ∀ np : NearPort, np.heldOff = [] → { np with heldOff := [] } = np := by
    intro np h; cases np; simp_all
  unfold State.presentRequest State.releaseHeld
  have hready : (s.setPort p { s.port p with heldOff := (s.port p).heldOff ++ [r] }).portReady p = true := by
    simp [State.portReady, hf, hr]
  rw [if_pos hready]
  simp only [State.port_setPort_self, hh, List.nil_append, State.setPort_setPort]
  rw [e _ hh, State.setPort_port]

/-- A port that cannot take a request holds it off. -/
theorem presentRequest_of_busy {s : State} {p : PortId} (r : Request)
    (h : (s.port p).status ≠ .free ∨ s.lines.resetN = true) :
    s.presentRequest p r = s.setPort p { s.port p with heldOff := (s.port p).heldOff ++ [r] } := by
  unfold State.presentRequest State.releaseHeld
  have hready : (s.setPort p { s.port p with heldOff := (s.port p).heldOff ++ [r] }).portReady p = false := by
    rcases h with h | h <;> simp [State.portReady, h]
  simp [hready]

/-- Every row that presents a request does so alike. -/
theorem exec_requestOf {c : Instr} {p : PortId} {r : Request} (s : State) (h : requestOf c = some (p, r)) :
    exec c s = .next (s.presentRequest p r) := by
  cases c <;> simp only [requestOf, reduceCtorEq, Option.some.injEq, Prod.mk.injEq] at h <;>
    (obtain ⟨rfl, rfl⟩ := h; rfl)

/-- A row that presents a well-formed request to an open port has it classified. -/
theorem exec_request_open {c : Instr} {p : PortId} {r : Request} {s : State} (h : requestOf c = some (p, r))
    (ho : s.portOpen p) (hw : r.wellFormed = true) : exec c s = .next (s.classify p r) := by
  rw [exec_requestOf s h, presentRequest_of_open r ho, State.handle, if_pos hw]

/-- The region decoder's row 2: a control-region WRITE after LOADING. -/
theorem classify_control {s : State} {p : PortId} {w : Write} (hr : s.inRegion w.addr.toNat = true)
    (hl : s.stroke.state ≠ .loading) : s.classify p (.write w) = s.controlWrite p w := by
  simp [State.classify, Request.addr, hr, hl]

/-- A control-region WRITE from port S that is neither dropped nor held is taken and forwarded. -/
theorem controlWrite_taken {s : State} {w : Write}
    (hd : s.dropDecision .s (w.addr.toNat - s.regionBase) w.beats = false)
    (ha : ((beatsFrom (w.addr.toNat - s.regionBase) w.beats).any armsAt && s.refusalOccupied) = false) :
    s.controlWrite .s w = (s.takeControl (w.addr.toNat - s.regionBase) w.beats).forward .s (.write w) := by
  simp [State.controlWrite, hd, ha]

/-- The end of a wait that is over, or that is not, or that is none. -/
theorem endWait_eq {s : State} {p : PortId} {c : WaitCause} {r : Request} (h : (s.port p).status = .waiting r c) :
    s.endWait p c = if s.waitOver r c then (s.freePort p).classify p r else s := by
  simp [State.endWait, State.waitingFor, h]

/-! ## Waits that end with the event that frees what they wait for -/

/-- A port that waits for nothing of this kind is left alone. -/
theorem endWait_of_none {s : State} {p : PortId} {c : WaitCause} (h : s.waitingFor p c = none) : s.endWait p c = s := by
  simp [State.endWait, h]

/-- A wait that is not over goes on. -/
theorem endWait_of_not_over {s : State} {p : PortId} {c : WaitCause} {r : Request} (h : s.waitingFor p c = some r)
    (ho : s.waitOver r c = false) : s.endWait p c = s := by
  simp [State.endWait, h, ho]

/-- A wait that is over has its request classified again. -/
theorem endWait_of_over {s : State} {p : PortId} {c : WaitCause} {r : Request} (h : s.waitingFor p c = some r)
    (ho : s.waitOver r c = true) : s.endWait p c = (s.freePort p).classify p r := by
  simp [State.endWait, h, ho]

theorem endQueueWait_of_none {s : State} {p : PortId} (h : s.waitingFor p .room = none ∧ s.waitingFor p .hazard = none) :
    s.endQueueWait p = s := by
  rw [State.endQueueWait, endWait_of_none h.1, endWait_of_none h.2]

/-- With no wait on the remap queue, an entry that leaves it ends none. -/
theorem endQueueWaits_of_none {s : State} (h : ∀ p, s.waitingFor p .room = none ∧ s.waitingFor p .hazard = none) :
    s.endQueueWaits = s := by
  rw [State.endQueueWaits, endQueueWait_of_none (h .a), endQueueWait_of_none (h .s)]

/-- A completed record ends REPORTING and nothing else when no arming request waits for its entry. -/
theorem afterRecord_of_none {s : State} {r : Record} (h : r.isRefusal = true → s.waitingFor .s .refusalEntry = none) :
    s.afterRecord r = s.endReporting r := by
  unfold State.afterRecord
  split
  · next hr =>
    have e : s.endReporting r = s := by
      cases r <;> simp_all [State.endReporting, Record.isStroke, Record.isRefusal]
    rw [e, State.takeArming, endWait_of_none (h hr)]
  · rfl

/-! ## A write of one word of the control region -/

theorem regionBase_lt (s : State) (off : Nat) (h : off < 16384) : s.regionBase + off < 2 ^ 32 := by
  have := s.ctrlBase.isLt
  unfold State.regionBase Config.regionSpacing
  omega

@[simp] theorem oneBeat_addr (s : State) (off : Nat) (b : Beat) (h : off < 16384) :
    (s.oneBeat off b).addr.toNat = s.regionBase + off := by
  simp only [State.oneBeat, toAddr, BitVec.toNat_ofNat]
  exact Nat.mod_eq_of_lt (regionBase_lt s off h)

theorem oneBeat_inRegion (s : State) (off : Nat) (b : Beat) (h : off < 16384) :
    s.inRegion (s.oneBeat off b).addr.toNat = true := by
  rw [oneBeat_addr s off b h]
  simp [State.inRegion, Config.regionBytes]
  omega

theorem oneBeat_wellFormed (s : State) (off : Nat) (b : Beat) (h : off < 16384) (h4 : off % 4 = 0) :
    (Request.write (s.oneBeat off b)).wellFormed = true := by
  have e := oneBeat_addr s off b h
  simp only [Request.wellFormed, Request.addr, Request.count, e]
  have hb : s.regionBase = s.ctrlBase.val * 536870912 := rfl
  have hn : (s.oneBeat off b).beats.length = 1 := rfl
  have h1 : (s.regionBase + off) % 4 = 0 := by omega
  have h2 : (s.regionBase + off) % 64 + 4 * 1 ≤ 64 := by omega
  simp [hn, h1, h2]

/-- What port S does with a one-beat write of a word of the control region that it takes. -/
theorem exec_oneBeat {c : Instr} {s : State} {off : Nat} {b : Beat} (hc : requestOf c = some (.s, .write (s.oneBeat off b)))
    (hs : s.serves) (h : off < 16384) (h4 : off % 4 = 0) (hd : s.dropsBeat (off, b) = false)
    (ha : (armsAt (off, b) && s.refusalOccupied) = false) :
    exec c s = .next ((s.takeControl off [b]).forward .s (.write (s.oneBeat off b))) := by
  have e : (s.oneBeat off b).addr.toNat - s.regionBase = off := by rw [oneBeat_addr s off b h]; omega
  have eb : (s.oneBeat off b).beats = [b] := rfl
  rw [exec_request_open hc hs.1 (oneBeat_wellFormed s off b h h4), classify_control (oneBeat_inRegion s off b h) hs.2,
    controlWrite_taken, e, eb]
  · rw [e, eb]
    simpa [State.dropDecision, beatsFrom] using hd
  · rw [e, eb]
    simpa [beatsFrom] using ha

/-- A word of the command area or of the plan acts by its one beat. -/
theorem takeControl_single (s : State) (off : Nat) (b : Beat) (h : Config.recipeBytes ≤ off) :
    s.takeControl off [b] = s.controlBeat (off, b) := by
  simp [State.takeControl, Nat.not_lt.mpr h, beatsFrom, State.controlBeats]

/-- What ABORT does at an open port S after LOADING: its effect by stroke state, then the code and the result recorded (R98, R144). -/
theorem exec_abort {s : State} (hs : s.serves) :
    let w := s.oneBeat 0x2420 (fullBeat 1)
    let t := s.abort.1
    exec (.abort w) s =
      .next ((({ t with writer := { t.writer with cmdCode := 1#32, cmdResult := s.abort.2 } }).markDirty).forward .s (.write w)) := by
  have hd : s.dropsBeat (0x2420, fullBeat 1) = false := by
    simp [State.dropsBeat, State.frozenAt, Config.statusOffset, Config.protectionOffset]
  intro w t
  rw [exec_oneBeat (off := 0x2420) (b := fullBeat 1) rfl hs (by decide) (by decide) hd (by simp [armsAt, Config.goOffset]),
    takeControl_single _ _ _ (by decide)]
  rfl

end Sys2Proof.Machine
end

