-- ==== Sys2Proof/Laws/Landing.lean ====
section
/-! SUPPORT. Taking a landing write beat by beat: the fold over the beats presents them in order to the pin checker, and its queue entries
carry the tags it returns; what a write to the recipe area meets in the drop decision. -/

namespace Sys2Proof.Machine

/-- What the judgement of a beat reads of the state. -/
def State.sameJudge (s u : State) : Prop :=
  s.checker = u.checker ∧ s.recipe = u.recipe ∧ s.stroke.state = u.stroke.state ∧ s.stroke.latched = u.stroke.latched

/-- A judged context changes the pin checker alone. -/
theorem putPin_eq (s : State) (c : Nat) (x : PinContext) : s.putPin c x = { s with checker := (s.putPin c x).checker } := by
  unfold State.putPin
  split
  · split <;> rfl
  · rfl

/-- A presented beat changes the pin checker alone. -/
theorem presentBeat_eq (s : State) (c st : Nat) (w : Word) (h : Bool) :
    (s.presentBeat c st w h).2.2 = { s with checker := (s.presentBeat c st w h).2.2.checker } := by
  unfold State.presentBeat
  split
  · rfl
  · exact putPin_eq s c _

/-- A beat after the halting beat, of an UNUSED pin or of a FROZEN one is not judged. -/
theorem presentBeat_of_skipped {s : State} {c st : Nat} {w : Word} {h : Bool}
    (hs : h = true ∨ (s.pin c).health = .unused ∨ (s.pin c).progress = .frozen) :
    s.presentBeat c st w h = (Tag.zero, h, s) := by
  simp [State.presentBeat, hs]

/-- Two states that agree on what the judgement reads give a beat the same tag and flag, and agree after it. -/
theorem presentBeat_congr {s u : State} (e : s.sameJudge u) (c st : Nat) (w : Word) (h : Bool) :
    (s.presentBeat c st w h).1 = (u.presentBeat c st w h).1 ∧ (s.presentBeat c st w h).2.1 = (u.presentBeat c st w h).2.1 ∧
      (s.presentBeat c st w h).2.2.sameJudge (u.presentBeat c st w h).2.2 := by
  obtain ⟨e1, e2, e3, e4⟩ := e
  have hp : ∀ d, s.pin d = u.pin d := fun d => by simp only [State.pin, e1]
  have hf : ∀ n, s.slotFailing n = u.slotFailing n := fun n => by simp only [State.slotFailing, e1]
  have hput : ∀ x, (s.putPin c x).checker = (u.putPin c x).checker := fun x => by
    simp only [State.putPin, hp, hf, e1, e2, e4]
    split
    · split <;> rfl
    · rfl
  by_cases hs : h = true ∨ (s.pin c).health = .unused ∨ (s.pin c).progress = .frozen
  · rw [presentBeat_of_skipped hs, presentBeat_of_skipped (hp c ▸ hs)]
    exact ⟨rfl, rfl, e1, e2, e3, e4⟩
  · have hu : ¬ (h = true ∨ (u.pin c).health = .unused ∨ (u.pin c).progress = .frozen) := hp c ▸ hs
    rw [State.presentBeat, if_neg hs, State.presentBeat, if_neg hu, ← hp, ← e2]
    refine ⟨rfl, ?_, ?_⟩
    · simp [State.haltingScope, State.faultCondition, State.thresholdCondition, hput, e1, e2, e3, e4]
    · simp [State.sameJudge, hput, e2, e3, e4]

/-- The entry that a beat at a landing offset adds to the remap queue, with its tag (R66, R67). -/
def State.landEntry (s : State) (o : Nat) (b : Beat) (t : Tag) : RemapEntry :=
  let x := toolOf s.stroke.latched s.cells o
  { addr := gridAddr s.recipe.shadow s.steps x.1 x.2, data := stamp b.data t, current := true, issued := false }

/-- Taking the beats of a write is presenting them in order: the same flag, the same contexts, and one entry for each beat, with its
tag. -/
theorem landBeats_presentBurst {s u : State} (e : s.sameJudge u) (o : Nat) (h : Bool) (bs : List Beat) :
    (s.landBeats o h bs).2 = (u.presentBurst o h bs).2.1 ∧
      (s.landBeats o h bs).1.checker = (u.presentBurst o h bs).2.2.checker ∧
      (u.presentBurst o h bs).1.length = bs.length ∧
      ∃ new, (s.landBeats o h bs).1.remap.queue = s.remap.queue ++ new ∧ new.length = bs.length ∧
        ∀ j b, bs[j]? = some b → ∃ t, (u.presentBurst o h bs).1[j]? = some t ∧ new[j]? = some (u.landEntry (o + j) b t) := by
  induction bs generalizing s u o h with
  | nil => exact ⟨rfl, e.1, rfl, [], by simp [State.landBeats], rfl, nofun⟩
  | cons b bs ih =>
    have ec : s.cells = u.cells := by simp only [State.cells, e.2.1]
    have es : s.steps = u.steps := by simp only [State.steps, e.2.2.2]
    generalize hx : toolOf u.stroke.latched u.cells o = x
    have hx' : toolOf s.stroke.latched s.cells o = x := by rw [e.2.2.2, ec, hx]
    obtain ⟨t1, t2, t3⟩ := presentBeat_congr e x.1 x.2 b.data h
    have hb : (s.landBeat o b h).1.sameJudge (u.presentBeat x.1 x.2 b.data h).2.2 := by
      simpa [State.landBeat, hx', State.sameJudge] using t3
    obtain ⟨i1, i2, i3, new, i4, i5, i6⟩ := ih hb (o + 1) (s.landBeat o b h).2
    have hf : (s.landBeat o b h).2 = (u.presentBeat x.1 x.2 b.data h).2.1 := by simpa [State.landBeat, hx'] using t2
    rw [hf] at i1 i2 i3 i4 i6
    refine ⟨?_, ?_, ?_, u.landEntry o b (u.presentBeat x.1 x.2 b.data h).1 :: new, ?_, by simp [i5], ?_⟩
    · simpa [State.landBeats, State.presentBurst, hx, hf] using i1
    · simpa [State.landBeats, State.presentBurst, hx, hf] using i2
    · simpa [State.presentBurst, hx] using i3
    · rw [State.landBeats, hf, i4]
      simp [State.landBeat, State.landEntry, hx, hx', t1, e.2.1, es]
    · intro j b' hj
      match j with
      | 0 =>
        obtain rfl : b = b' := by simpa using hj
        exact ⟨(u.presentBeat x.1 x.2 b.data h).1, by simp [State.presentBurst, hx], by simp⟩
      | j + 1 =>
        obtain ⟨t, h1, h2⟩ := i6 j b' (by simpa using hj)
        refine ⟨t, by simpa [State.presentBurst, hx] using h1, ?_⟩
        have hs : o + 1 + j = o + (j + 1) := by omega
        simpa [State.landEntry, hs, State.cells, State.steps] using h2

/-- A burst changes the pin checker alone. -/
theorem presentBurst_frame (s : State) (o : Nat) (h : Bool) (bs : List Beat) :
    (s.presentBurst o h bs).2.2 = { s with checker := (s.presentBurst o h bs).2.2.checker } := by
  induction bs generalizing s o h with
  | nil => rfl
  | cons b bs ih =>
    rw [State.presentBurst, ih, presentBeat_eq]

/-! ## Recipe writes and the drop decision -/

/-- No freeze flag covers a recipe word exactly where the word's line is thawed (R163). -/
theorem frozenAt_eq_false {s : State} {off : Nat} (h : off < 0x2400) : s.frozenAt off = false ↔ s.thawedAt off := by
  unfold State.frozenAt State.thawedAt
  (repeat' split) <;> first | exact Iff.rfl | omega

/-- A beat of the recipe area drops its write by a freeze flag alone (R161, R163). -/
theorem dropsBeat_recipe (s : State) {off : Nat} (b : Beat) (h : off < 0x2400) : s.dropsBeat (off, b) = s.frozenAt off := by
  have h1 : ¬ Config.statusOffset ≤ off := by unfold Config.statusOffset; omega
  have h2 : (off == Config.protectionOffset) = false := by
    rw [beq_eq_false_iff_ne]; unfold Config.protectionOffset; omega
  simp [State.dropsBeat, h1, h2]

/-- The words of a 64-byte line fall under one freeze flag. -/
theorem frozenAt_line (s : State) {off k : Nat} (h : off % 64 + 4 * k < 64) : s.frozenAt (off + 4 * k) = s.frozenAt off := by
  unfold State.frozenAt
  (repeat' split) <;> first | rfl | omega

/-- A write within one line of the recipe area is dropped from port S exactly when a freeze flag covers the line. -/
theorem dropDecision_recipe (s : State) {off : Nat} {bs : List Beat} (h : off < 0x2400) (hl : off % 64 + 4 * bs.length ≤ 64)
    (hn : bs ≠ []) : s.dropDecision .s off bs = s.frozenAt off := by
  have key : ∀ (bs : List Beat) (k : Nat), off % 64 + 4 * (k + bs.length) ≤ 64 → bs ≠ [] →
      (beatsFrom (off + 4 * k) bs).any s.dropsBeat = s.frozenAt off := by
    intro bs
    induction bs with
    | nil => exact fun k _ hn => absurd rfl hn
    | cons b bs ih =>
      intro k hk _
      rw [List.length_cons] at hk
      rw [beatsFrom, List.any_cons, dropsBeat_recipe s b (by omega), frozenAt_line s (by omega)]
      by_cases hb : bs = []
      · simp [hb, beatsFrom]
      · rw [show off + 4 * k + 4 = off + 4 * (k + 1) by omega, ih (k + 1) (by omega) hb, Bool.or_self]
  rw [State.dropDecision, show (PortId.s == PortId.a) = false from rfl, Bool.false_or]
  exact key bs 0 (by omega) hn

end Sys2Proof.Machine
end

