-- ==== Sys2Proof/Laws/Memory.lean ====
section
/-! SUPPORT. The addressed buffers: every memory operation keeps the canonical form, what a byte reads after a write, and the
recipe sum. -/

namespace Sys2Proof.Machine

/-- A canonical form from lo is one from any lower bound. -/
theorem Memory.wfFrom_mono {lo lo' : Nat} (h : lo' ≤ lo) (m : Memory) (hm : m.wfFrom lo = true) : m.wfFrom lo' = true := by
  cases m with
  | nil => rfl
  | cons c m =>
    obtain ⟨a, v⟩ := c
    simp only [Memory.wfFrom, Bool.and_eq_true, decide_eq_true_eq] at hm ⊢
    exact ⟨⟨by omega, hm.1.2⟩, hm.2⟩

/-- A canonical buffer reads 0 below its bound. -/
theorem Memory.readByte_below {lo a : Nat} (m : Memory) (hm : m.wfFrom lo = true) (h : a < lo) : m.readByte a = 0 := by
  induction m generalizing lo with
  | nil => rfl
  | cons c m ih =>
    obtain ⟨b, v⟩ := c
    simp only [Memory.wfFrom, Bool.and_eq_true, decide_eq_true_eq] at hm
    rw [Memory.readByte, if_neg (by omega)]
    exact ih hm.2 (by omega)

/-- A write of a byte keeps the canonical form. -/
theorem Memory.writeByte_wfFrom {lo a : Nat} (m : Memory) (v : Byte) (hm : m.wfFrom lo = true) (h : lo ≤ a) :
    (m.writeByte a v).wfFrom lo = true := by
  induction m generalizing lo with
  | nil =>
    unfold Memory.writeByte
    split
    · rfl
    · rename_i hv
      simp only [Memory.wfFrom, Bool.and_true, Bool.and_eq_true, decide_eq_true_eq]
      exact ⟨h, by simpa using hv⟩
  | cons c m ih =>
    obtain ⟨b, u⟩ := c
    have hm' := hm
    simp only [Memory.wfFrom, Bool.and_eq_true, decide_eq_true_eq] at hm
    unfold Memory.writeByte
    split
    · split
      · exact hm'
      · rename_i hlt hv
        simp only [Memory.wfFrom, Bool.and_eq_true, decide_eq_true_eq]
        exact ⟨⟨h, by simpa using hv⟩, ⟨by omega, hm.1.2⟩, hm.2⟩
    · split
      · split
        · exact Memory.wfFrom_mono (by omega) m hm.2
        · rename_i heq hv
          subst heq
          simp only [Memory.wfFrom, Bool.and_eq_true, decide_eq_true_eq]
          exact ⟨⟨h, by simpa using hv⟩, hm.2⟩
      · simp only [Memory.wfFrom, Bool.and_eq_true, decide_eq_true_eq]
        exact ⟨hm.1, ih hm.2 (by omega)⟩

/-- A write of a byte keeps the canonical form. -/
theorem Memory.writeByte_wf (m : Memory) (a : Nat) (v : Byte) (hm : m.wf = true) : (m.writeByte a v).wf = true :=
  Memory.writeByte_wfFrom m v hm (Nat.zero_le a)

/-- A byte just written reads back. -/
theorem Memory.readByte_writeByte_self {lo : Nat} (m : Memory) (a : Nat) (v : Byte) (hm : m.wfFrom lo = true) :
    (m.writeByte a v).readByte a = v := by
  induction m generalizing lo with
  | nil =>
    unfold Memory.writeByte
    split
    · rename_i hv; simp [Memory.readByte, hv]
    · simp [Memory.readByte]
  | cons c m ih =>
    obtain ⟨b, u⟩ := c
    have hm' := hm
    simp only [Memory.wfFrom, Bool.and_eq_true, decide_eq_true_eq] at hm
    unfold Memory.writeByte
    split
    · rename_i hlt
      split
      · rename_i hv
        rw [Memory.readByte, if_neg (by omega), Memory.readByte_below m hm.2 (by omega), hv]
      · simp [Memory.readByte]
    · split
      · rename_i heq
        subst heq
        split
        · rename_i hv
          rw [Memory.readByte_below m hm.2 (by omega), hv]
        · simp [Memory.readByte]
      · rw [Memory.readByte, if_neg (by omega)]
        exact ih hm.2

/-- A write of a byte leaves every other byte as it read. -/
theorem Memory.readByte_writeByte_ne (m : Memory) {a c : Nat} (v : Byte) (h : c ≠ a) :
    (m.writeByte a v).readByte c = m.readByte c := by
  induction m with
  | nil =>
    unfold Memory.writeByte
    split
    · rfl
    · simp [Memory.readByte, Ne.symm h]
  | cons x m ih =>
    obtain ⟨b, u⟩ := x
    unfold Memory.writeByte
    split
    · split
      · rfl
      · simp [Memory.readByte, Ne.symm h]
    · split
      · rename_i heq
        subst heq
        split
        · simp [Memory.readByte, Ne.symm h]
        · simp [Memory.readByte, Ne.symm h]
      · simp only [Memory.readByte, ih]

/-- A beat keeps the canonical form. -/
theorem Memory.writeBeat_wf (m : Memory) (a : Nat) (b : Beat) (hm : m.wf = true) : (m.writeBeat a b).wf = true := by
  unfold Memory.writeBeat
  dsimp only
  split <;> split <;> split <;> split <;> repeat' (first | exact hm | apply Memory.writeByte_wf)

/-- The beats of a write keep the canonical form. -/
theorem applyBeats_wf (m : Memory) (off : Nat) (bs : List Beat) (hm : m.wf = true) : (applyBeats m off bs).wf = true := by
  induction bs generalizing m off with
  | nil => exact hm
  | cons b bs ih => exact ih _ _ (Memory.writeBeat_wf m off b hm)

/-- The byte at i of the four at a, after a beat. -/
theorem Memory.readByte_writeBeat_at (m : Memory) (a : Nat) (b : Beat) (i : Nat) (hi : i < 4) (hm : m.wf = true) :
    (m.writeBeat a b).readByte (a + i) = if b.enable.getLsbD i then byteOf b.data i else m.readByte (a + i) := by
  have w := fun (m : Memory) (a : Nat) (v : Byte) (h : m.wf = true) => Memory.writeByte_wf m a v h
  have self := fun (m : Memory) (a : Nat) (v : Byte) (h : m.wf = true) => Memory.readByte_writeByte_self (lo := 0) m a v h
  have ne := fun (m : Memory) (x y : Nat) (v : Byte) (h : y ≠ x) => Memory.readByte_writeByte_ne m (a := x) (c := y) v h
  have hi' : i = 0 ∨ i = 1 ∨ i = 2 ∨ i = 3 := by omega
  unfold Memory.writeBeat
  dsimp only
  rcases hi' with rfl | rfl | rfl | rfl <;>
    (cases h0 : b.enable.getLsbD 0 <;> cases h1 : b.enable.getLsbD 1 <;> cases h2 : b.enable.getLsbD 2 <;>
      cases h3 : b.enable.getLsbD 3 <;> simp (maxDischargeDepth := 8) [w, self, ne, hm])

/-- A beat leaves every byte outside its word as it read. -/
theorem Memory.readByte_writeBeat_ne (m : Memory) (a : Nat) (b : Beat) (c : Nat) (h : c < a ∨ a + 4 ≤ c) :
    (m.writeBeat a b).readByte c = m.readByte c := by
  have ne := fun (m : Memory) (x : Nat) (v : Byte) (h : c ≠ x) => Memory.readByte_writeByte_ne m (a := x) (c := c) v h
  have e0 : c ≠ a := by omega
  have e1 : c ≠ a + 1 := by omega
  have e2 : c ≠ a + 2 := by omega
  have e3 : c ≠ a + 3 := by omega
  unfold Memory.writeBeat
  dsimp only
  split <;> split <;> split <;> split <;> simp [ne, e0, e1, e2, e3]

/-- A beat leaves every other word as it read. -/
theorem Memory.readWord_writeBeat_ne (m : Memory) (a : Nat) (b : Beat) (c : Nat) (h : c + 4 ≤ a ∨ a + 4 ≤ c) :
    (m.writeBeat a b).readWord c = m.readWord c := by
  unfold Memory.readWord
  rw [Memory.readByte_writeBeat_ne, Memory.readByte_writeBeat_ne, Memory.readByte_writeBeat_ne,
    Memory.readByte_writeBeat_ne] <;> omega

/-- A word is its four bytes. -/
theorem word_of_bytes (w : Word) : byteOf w 3 ++ byteOf w 2 ++ byteOf w 1 ++ byteOf w 0 = w := by
  unfold byteOf
  apply BitVec.eq_of_getLsbD_eq
  intro i hi
  simp only [BitVec.getLsbD_append, BitVec.getLsbD_extractLsb']
  split
  · rename_i h; simp [h]
  · split
    · rename_i h1 h2
      rw [show 8 * 1 + (i - 8) = i by omega]
      simp [h2]
    · split
      · rename_i h1 h2 h3
        rw [show 8 * 2 + (i - 8 - 8) = i by omega]
        simp [h3]
      · rw [show 8 * 3 + (i - 8 - 8 - 8) = i by omega]
        simp; omega

/-- A whole beat reads back. -/
theorem Memory.readWord_writeBeat_full (m : Memory) (a : Nat) (d : Word) (hm : m.wf = true) :
    (m.writeBeat a (fullBeat d)).readWord a = d := by
  have e : ∀ i, i < 4 → (m.writeBeat a (fullBeat d)).readByte (a + i) = byteOf d i := by
    intro i hi
    have hi' : i = 0 ∨ i = 1 ∨ i = 2 ∨ i = 3 := by omega
    rw [Memory.readByte_writeBeat_at m a (fullBeat d) i hi hm]
    rcases hi' with rfl | rfl | rfl | rfl <;> simp [fullBeat]
  unfold Memory.readWord
  rw [e 3 (by omega), e 2 (by omega), e 1 (by omega), show (m.writeBeat a (fullBeat d)).readByte a = byteOf d 0 from e 0 (by omega)]
  exact word_of_bytes d

/-- The reset state's shadow has the canonical form, and it sums to 0. -/
theorem State.reset_shadow : State.reset.recipe.shadow.wf = true ∧ State.reset.recipe.shadow = [] := ⟨rfl, rfl⟩

/-! ## The bytes and the sum after a write -/

/-- The bytes after the beats of a write. -/
theorem readByte_applyBeats (m : Memory) (off : Nat) (bs : List Beat) (i : Nat) (hm : m.wf = true) :
    (applyBeats m off bs).readByte i = (byteGiven off bs i).getD (m.readByte i) := by
  induction bs generalizing m off with
  | nil => simp [applyBeats, byteGiven]
  | cons b bs ih =>
    rw [applyBeats, ih _ _ (Memory.writeBeat_wf m off b hm)]
    by_cases h1 : off ≤ i
    · by_cases h2 : off + 4 ≤ i
      · rw [Memory.readByte_writeBeat_ne m off b i (.inr h2)]
        have hd : (i - off) / 4 = (i - (off + 4)) / 4 + 1 := by omega
        have hr : (i - off) % 4 = (i - (off + 4)) % 4 := by omega
        simp [byteGiven, h1, h2, hd, hr]
      · have hlt : (i - off) / 4 = 0 := by omega
        have hm4 : (i - off) % 4 = i - off := by omega
        have hi : i = off + (i - off) := by omega
        have hb := Memory.readByte_writeBeat_at m off b (i - off) (by omega) hm
        rw [← hi] at hb
        simp only [byteGiven, h1, h2, if_true, if_false, hlt, hm4, List.getElem?_cons_zero, Option.getD_none, hb]
        split <;> rfl
    · rw [Memory.readByte_writeBeat_ne m off b i (.inl (by omega))]
      have h2 : ¬ off + 4 ≤ i := by omega
      simp [byteGiven, h1, h2]

/-- The sum of the first n words of a buffer. -/
theorem sum_range_succ (f : Nat → Word) (n : Nat) : ((List.range (n + 1)).map f).sum = ((List.range n).map f).sum + f n := by
  rw [List.range_succ, List.map_append, List.sum_append]
  simp

/-- Two buffers that differ in at most one of the first n words: their sums differ by that word. -/
theorem sum_words (f g : Nat → Word) (k n : Nat) (hk : k < n) (h : ∀ i, i ≠ k → g i = f i) :
    ((List.range n).map g).sum = ((List.range n).map f).sum - f k + g k := by
  induction n with
  | zero => omega
  | succ n ih =>
    rw [sum_range_succ, sum_range_succ]
    by_cases hkn : k = n
    · subst hkn
      have : (List.range k).map g = (List.range k).map f := by
        apply List.map_congr_left
        intro i hi
        exact h i (by simp at hi; omega)
      rw [this]
      abel
    · rw [ih (by omega), h n (by omega)]
      abel

/-- One beat keeps the sum the sum of the words. -/
theorem sumBeat_eq (m : Memory) (off : Nat) (b : Beat) (h : off < Config.recipeBytes) (h4 : off % 4 = 0) :
    sumBeat (shadowSum m) m off b = shadowSum (m.writeBeat off b) := by
  unfold sumBeat shadowSum
  have hk : off / 4 < 2304 := by unfold Config.recipeBytes at h; omega
  have e : 4 * (off / 4) = off := by omega
  rw [sum_words (fun i => m.readWord (4 * i)) (fun i => (m.writeBeat off b).readWord (4 * i)) (off / 4) 2304 hk]
  · simp only [e]
  · intro i hi
    exact Memory.readWord_writeBeat_ne m off b (4 * i) (by omega)

/-- The beats of a write keep the sum the sum of the words (R154). -/
theorem sumBeats_eq (m : Memory) (off : Nat) (bs : List Beat) (h : off + 4 * bs.length ≤ Config.recipeBytes) (h4 : off % 4 = 0) :
    sumBeats (shadowSum m) m off bs = shadowSum (applyBeats m off bs) := by
  induction bs generalizing m off with
  | nil => rfl
  | cons b bs ih =>
    simp only [List.length_cons] at h
    rw [sumBeats, applyBeats, sumBeat_eq m off b (by omega) h4]
    exact ih _ _ (by omega) (by omega)

/-- A byte outside a bound is not listed after a write within it. -/
theorem Memory.writeByte_within (m : Memory) (n a : Nat) (v : Byte) (hm : (m.all fun c => decide (c.1 < n)) = true) (h : a < n) :
    ((m.writeByte a v).all fun c => decide (c.1 < n)) = true := by
  induction m with
  | nil =>
    unfold Memory.writeByte
    split
    · rfl
    · simp [h]
  | cons x m ih =>
    obtain ⟨b, u⟩ := x
    rw [List.all_cons, Bool.and_eq_true] at hm
    have head : ∀ u' : Byte, List.all ((a, u') :: m) (fun c => decide (c.1 < n)) = true := by
      intro u'
      rw [List.all_cons, Bool.and_eq_true]
      exact ⟨by simpa using h, hm.2⟩
    have whole : List.all ((b, u) :: m) (fun c => decide (c.1 < n)) = true := by
      rw [List.all_cons, Bool.and_eq_true]
      exact hm
    unfold Memory.writeByte
    split
    · split
      · exact whole
      · rw [List.all_cons, Bool.and_eq_true]
        exact ⟨by simpa using h, whole⟩
    · split
      · split
        · exact hm.2
        · rename_i heq hv
          subst heq
          exact head v
      · rw [List.all_cons, Bool.and_eq_true]
        exact ⟨hm.1, ih hm.2⟩

/-- A beat within a bound lists nothing outside it. -/
theorem Memory.writeBeat_within (m : Memory) (n a : Nat) (b : Beat) (hm : (m.all fun c => decide (c.1 < n)) = true)
    (h : a + 4 ≤ n) : ((m.writeBeat a b).all fun c => decide (c.1 < n)) = true := by
  unfold Memory.writeBeat
  dsimp only
  split <;> split <;> split <;> split <;>
    repeat' (first | exact hm | (refine Memory.writeByte_within _ n _ _ ?_ (by omega)))

/-- The beats of a write within a bound list nothing outside it. -/
theorem applyBeats_within (m : Memory) (n off : Nat) (bs : List Beat) (hm : (m.all fun c => decide (c.1 < n)) = true)
    (h : off + 4 * bs.length ≤ n) : ((applyBeats m off bs).all fun c => decide (c.1 < n)) = true := by
  induction bs generalizing m off with
  | nil => exact hm
  | cons b bs ih =>
    simp only [List.length_cons] at h
    exact ih _ _ (Memory.writeBeat_within m n off b hm (by omega)) (by omega)

end Sys2Proof.Machine
end

