-- ==== Sys2Proof/Laws/Queue.lean ====
section
/-! SUPPORT. The report queue and the refusals: what queueing, handing off and ending a stroke leave in them, and the fields of the report
writer and of the line and event unit that no such operation touches. -/

namespace Sys2Proof.Machine

/-! ## The indexes, the last command and the levels, kept -/

@[simp] theorem State.setFlag_keeps (s : State) (f : EventFlag) :
    (s.setFlag f).writer.producer = s.writer.producer ∧ (s.setFlag f).writer.consumer = s.writer.consumer ∧
    (s.setFlag f).writer.lap = s.writer.lap ∧ (s.setFlag f).writer.memErrAddr = s.writer.memErrAddr ∧
    (s.setFlag f).writer.cmdCode = s.writer.cmdCode ∧ (s.setFlag f).writer.cmdResult = s.writer.cmdResult ∧
    (s.setFlag f).writer.lastIssued = s.writer.lastIssued ∧ (s.setFlag f).writer.loadIssued = s.writer.loadIssued ∧
    (s.setFlag f).writer.loadAnswered = s.writer.loadAnswered ∧ (s.setFlag f).lines.haltLatch = s.lines.haltLatch ∧
    (s.setFlag f).lines.force = s.lines.force ∧ (s.setFlag f).lines.enables = s.lines.enables ∧
    (s.setFlag f).lines.pressAbort = s.lines.pressAbort ∧ (s.setFlag f).lines.resetN = s.lines.resetN := by
  simp

@[simp] theorem State.captureRefused_keeps (s : State) (a : Word) :
    (s.captureRefused a).writer.producer = s.writer.producer ∧
    (s.captureRefused a).writer.consumer = s.writer.consumer ∧ (s.captureRefused a).writer.lap = s.writer.lap ∧
    (s.captureRefused a).writer.memErrAddr = s.writer.memErrAddr ∧
    (s.captureRefused a).writer.cmdCode = s.writer.cmdCode ∧
    (s.captureRefused a).writer.cmdResult = s.writer.cmdResult ∧
    (s.captureRefused a).writer.lastIssued = s.writer.lastIssued ∧
    (s.captureRefused a).writer.loadIssued = s.writer.loadIssued ∧
    (s.captureRefused a).writer.loadAnswered = s.writer.loadAnswered ∧
    (s.captureRefused a).lines.haltLatch = s.lines.haltLatch ∧ (s.captureRefused a).lines.force = s.lines.force ∧
    (s.captureRefused a).lines.enables = s.lines.enables ∧ (s.captureRefused a).lines.pressAbort = s.lines.pressAbort ∧
    (s.captureRefused a).lines.resetN = s.lines.resetN := by
  unfold State.captureRefused
  split <;> simp

@[simp] theorem State.takeUpHead_keeps (s : State) :
    s.takeUpHead.writer.producer = s.writer.producer ∧ s.takeUpHead.writer.consumer = s.writer.consumer ∧
    s.takeUpHead.writer.lap = s.writer.lap ∧ s.takeUpHead.writer.memErrAddr = s.writer.memErrAddr ∧
    s.takeUpHead.writer.cmdCode = s.writer.cmdCode ∧ s.takeUpHead.writer.cmdResult = s.writer.cmdResult ∧
    s.takeUpHead.writer.lastIssued = s.writer.lastIssued ∧ s.takeUpHead.writer.loadIssued = s.writer.loadIssued ∧
    s.takeUpHead.writer.loadAnswered = s.writer.loadAnswered ∧ s.takeUpHead.lines.haltLatch = s.lines.haltLatch ∧
    s.takeUpHead.lines.force = s.lines.force ∧ s.takeUpHead.lines.enables = s.lines.enables ∧
    s.takeUpHead.lines.pressAbort = s.lines.pressAbort ∧ s.takeUpHead.lines.resetN = s.lines.resetN := by
  unfold State.takeUpHead
  split <;> simp

@[simp] theorem State.enqueue_keeps (s : State) (r : Record) :
    (s.enqueue r).writer.producer = s.writer.producer ∧ (s.enqueue r).writer.consumer = s.writer.consumer ∧
    (s.enqueue r).writer.lap = s.writer.lap ∧ (s.enqueue r).writer.memErrAddr = s.writer.memErrAddr ∧
    (s.enqueue r).writer.cmdCode = s.writer.cmdCode ∧ (s.enqueue r).writer.cmdResult = s.writer.cmdResult ∧
    (s.enqueue r).writer.lastIssued = s.writer.lastIssued ∧ (s.enqueue r).writer.loadIssued = s.writer.loadIssued ∧
    (s.enqueue r).writer.loadAnswered = s.writer.loadAnswered ∧ (s.enqueue r).lines.haltLatch = s.lines.haltLatch ∧
    (s.enqueue r).lines.force = s.lines.force ∧ (s.enqueue r).lines.enables = s.lines.enables ∧
    (s.enqueue r).lines.pressAbort = s.lines.pressAbort ∧ (s.enqueue r).lines.resetN = s.lines.resetN := by
  unfold State.enqueue
  dsimp only
  split <;> simp

@[simp] theorem State.queueRefusal_keeps (s : State) (r : RefusalRecord) :
    (s.queueRefusal r).writer.producer = s.writer.producer ∧ (s.queueRefusal r).writer.consumer = s.writer.consumer ∧
    (s.queueRefusal r).writer.lap = s.writer.lap ∧ (s.queueRefusal r).writer.memErrAddr = s.writer.memErrAddr ∧
    (s.queueRefusal r).writer.cmdCode = s.writer.cmdCode ∧ (s.queueRefusal r).writer.cmdResult = s.writer.cmdResult ∧
    (s.queueRefusal r).writer.lastIssued = s.writer.lastIssued ∧
    (s.queueRefusal r).writer.loadIssued = s.writer.loadIssued ∧
    (s.queueRefusal r).writer.loadAnswered = s.writer.loadAnswered ∧
    (s.queueRefusal r).lines.haltLatch = s.lines.haltLatch ∧ (s.queueRefusal r).lines.force = s.lines.force ∧
    (s.queueRefusal r).lines.enables = s.lines.enables ∧ (s.queueRefusal r).lines.pressAbort = s.lines.pressAbort ∧
    (s.queueRefusal r).lines.resetN = s.lines.resetN := by
  unfold State.queueRefusal
  split <;> simp

@[simp] theorem State.handOffOwed_keeps (s : State) :
    s.handOffOwed.writer.producer = s.writer.producer ∧ s.handOffOwed.writer.consumer = s.writer.consumer ∧
    s.handOffOwed.writer.lap = s.writer.lap ∧ s.handOffOwed.writer.memErrAddr = s.writer.memErrAddr ∧
    s.handOffOwed.writer.cmdCode = s.writer.cmdCode ∧ s.handOffOwed.writer.cmdResult = s.writer.cmdResult ∧
    s.handOffOwed.writer.lastIssued = s.writer.lastIssued ∧ s.handOffOwed.writer.loadIssued = s.writer.loadIssued ∧
    s.handOffOwed.writer.loadAnswered = s.writer.loadAnswered ∧ s.handOffOwed.lines.haltLatch = s.lines.haltLatch ∧
    s.handOffOwed.lines.force = s.lines.force ∧ s.handOffOwed.lines.enables = s.lines.enables ∧
    s.handOffOwed.lines.pressAbort = s.lines.pressAbort ∧ s.handOffOwed.lines.resetN = s.lines.resetN := by
  unfold State.handOffOwed
  split <;> (try split) <;> simp

@[simp] theorem State.enter_keeps (s : State) (st : StrokeState) :
    (s.enter st).writer.producer = s.writer.producer ∧ (s.enter st).writer.consumer = s.writer.consumer ∧
    (s.enter st).writer.lap = s.writer.lap ∧ (s.enter st).writer.memErrAddr = s.writer.memErrAddr ∧
    (s.enter st).writer.cmdCode = s.writer.cmdCode ∧ (s.enter st).writer.cmdResult = s.writer.cmdResult ∧
    (s.enter st).writer.lastIssued = s.writer.lastIssued ∧ (s.enter st).writer.loadIssued = s.writer.loadIssued ∧
    (s.enter st).writer.loadAnswered = s.writer.loadAnswered ∧ (s.enter st).lines.haltLatch = s.lines.haltLatch ∧
    (s.enter st).lines.force = s.lines.force ∧ (s.enter st).lines.enables = s.lines.enables ∧
    (s.enter st).lines.pressAbort = s.lines.pressAbort ∧ (s.enter st).lines.resetN = s.lines.resetN := by
  simp [State.enter]

@[simp] theorem State.beginArming_keeps (s : State) (p : Plan) :
    (s.beginArming p).writer.producer = s.writer.producer ∧ (s.beginArming p).writer.consumer = s.writer.consumer ∧
    (s.beginArming p).writer.lap = s.writer.lap ∧ (s.beginArming p).writer.memErrAddr = s.writer.memErrAddr ∧
    (s.beginArming p).writer.cmdCode = s.writer.cmdCode ∧ (s.beginArming p).writer.cmdResult = s.writer.cmdResult ∧
    (s.beginArming p).writer.lastIssued = s.writer.lastIssued ∧
    (s.beginArming p).writer.loadIssued = s.writer.loadIssued ∧
    (s.beginArming p).writer.loadAnswered = s.writer.loadAnswered ∧
    (s.beginArming p).lines.haltLatch = s.lines.haltLatch ∧ (s.beginArming p).lines.force = s.lines.force ∧
    (s.beginArming p).lines.enables = s.lines.enables ∧ (s.beginArming p).lines.pressAbort = s.lines.pressAbort ∧
    (s.beginArming p).lines.resetN = s.lines.resetN := by
  simp [State.beginArming]

@[simp] theorem State.enterIdle_keeps (s : State) :
    s.enterIdle.writer.producer = s.writer.producer ∧ s.enterIdle.writer.consumer = s.writer.consumer ∧
    s.enterIdle.writer.lap = s.writer.lap ∧ s.enterIdle.writer.memErrAddr = s.writer.memErrAddr ∧
    s.enterIdle.writer.cmdCode = s.writer.cmdCode ∧ s.enterIdle.writer.cmdResult = s.writer.cmdResult ∧
    s.enterIdle.writer.lastIssued = s.writer.lastIssued ∧ s.enterIdle.writer.loadIssued = s.writer.loadIssued ∧
    s.enterIdle.writer.loadAnswered = s.writer.loadAnswered ∧ s.enterIdle.lines.haltLatch = s.lines.haltLatch ∧
    s.enterIdle.lines.force = s.lines.force ∧ s.enterIdle.lines.enables = s.lines.enables ∧
    s.enterIdle.lines.pressAbort = s.lines.pressAbort ∧ s.enterIdle.lines.resetN = s.lines.resetN := by
  unfold State.enterIdle
  split <;> simp

@[simp] theorem State.refuseArming_keeps (s : State) (r : RefusalRecord) :
    (s.refuseArming r).writer.producer = s.writer.producer ∧ (s.refuseArming r).writer.consumer = s.writer.consumer ∧
    (s.refuseArming r).writer.lap = s.writer.lap ∧ (s.refuseArming r).writer.memErrAddr = s.writer.memErrAddr ∧
    (s.refuseArming r).writer.cmdCode = s.writer.cmdCode ∧ (s.refuseArming r).writer.cmdResult = s.writer.cmdResult ∧
    (s.refuseArming r).writer.lastIssued = s.writer.lastIssued ∧
    (s.refuseArming r).writer.loadIssued = s.writer.loadIssued ∧
    (s.refuseArming r).writer.loadAnswered = s.writer.loadAnswered ∧
    (s.refuseArming r).lines.haltLatch = s.lines.haltLatch ∧ (s.refuseArming r).lines.force = s.lines.force ∧
    (s.refuseArming r).lines.enables = s.lines.enables ∧ (s.refuseArming r).lines.pressAbort = s.lines.pressAbort ∧
    (s.refuseArming r).lines.resetN = s.lines.resetN := by
  simp [State.refuseArming]

@[simp] theorem State.abandonArming_keeps (s : State) :
    s.abandonArming.writer.producer = s.writer.producer ∧ s.abandonArming.writer.consumer = s.writer.consumer ∧
    s.abandonArming.writer.lap = s.writer.lap ∧ s.abandonArming.writer.memErrAddr = s.writer.memErrAddr ∧
    s.abandonArming.writer.cmdCode = s.writer.cmdCode ∧ s.abandonArming.writer.cmdResult = s.writer.cmdResult ∧
    s.abandonArming.writer.lastIssued = s.writer.lastIssued ∧ s.abandonArming.writer.loadIssued = s.writer.loadIssued ∧
    s.abandonArming.writer.loadAnswered = s.writer.loadAnswered ∧ s.abandonArming.lines.haltLatch = s.lines.haltLatch ∧
    s.abandonArming.lines.force = s.lines.force ∧ s.abandonArming.lines.enables = s.lines.enables ∧
    s.abandonArming.lines.pressAbort = s.lines.pressAbort ∧ s.abandonArming.lines.resetN = s.lines.resetN := by
  simp [State.abandonArming]

@[simp] theorem State.notice_keeps (s : State) (b : BitVec 9) :
    (s.notice b).writer.producer = s.writer.producer ∧ (s.notice b).writer.consumer = s.writer.consumer ∧
    (s.notice b).writer.lap = s.writer.lap ∧ (s.notice b).writer.memErrAddr = s.writer.memErrAddr ∧
    (s.notice b).writer.cmdCode = s.writer.cmdCode ∧ (s.notice b).writer.cmdResult = s.writer.cmdResult ∧
    (s.notice b).writer.lastIssued = s.writer.lastIssued ∧ (s.notice b).writer.loadIssued = s.writer.loadIssued ∧
    (s.notice b).writer.loadAnswered = s.writer.loadAnswered ∧ (s.notice b).lines.haltLatch = s.lines.haltLatch ∧
    (s.notice b).lines.force = s.lines.force ∧ (s.notice b).lines.enables = s.lines.enables ∧
    (s.notice b).lines.pressAbort = s.lines.pressAbort ∧ (s.notice b).lines.resetN = s.lines.resetN := by
  unfold State.notice
  split <;> simp

@[simp] theorem State.raise_keeps (s : State) (f : EventFlag) :
    (s.raise f).writer.producer = s.writer.producer ∧ (s.raise f).writer.consumer = s.writer.consumer ∧
    (s.raise f).writer.lap = s.writer.lap ∧ (s.raise f).writer.memErrAddr = s.writer.memErrAddr ∧
    (s.raise f).writer.cmdCode = s.writer.cmdCode ∧ (s.raise f).writer.cmdResult = s.writer.cmdResult ∧
    (s.raise f).writer.lastIssued = s.writer.lastIssued ∧ (s.raise f).writer.loadIssued = s.writer.loadIssued ∧
    (s.raise f).writer.loadAnswered = s.writer.loadAnswered ∧ (s.raise f).lines.haltLatch = s.lines.haltLatch ∧
    (s.raise f).lines.force = s.lines.force ∧ (s.raise f).lines.enables = s.lines.enables ∧
    (s.raise f).lines.pressAbort = s.lines.pressAbort ∧ (s.raise f).lines.resetN = s.lines.resetN := by
  simp [State.raise]

@[simp] theorem State.refuseWrite_keeps (s : State) (f : EventFlag) (a : Word) :
    (s.refuseWrite f a).writer.producer = s.writer.producer ∧ (s.refuseWrite f a).writer.consumer = s.writer.consumer ∧
    (s.refuseWrite f a).writer.lap = s.writer.lap ∧ (s.refuseWrite f a).writer.memErrAddr = s.writer.memErrAddr ∧
    (s.refuseWrite f a).writer.cmdCode = s.writer.cmdCode ∧ (s.refuseWrite f a).writer.cmdResult = s.writer.cmdResult ∧
    (s.refuseWrite f a).writer.lastIssued = s.writer.lastIssued ∧
    (s.refuseWrite f a).writer.loadIssued = s.writer.loadIssued ∧
    (s.refuseWrite f a).writer.loadAnswered = s.writer.loadAnswered ∧
    (s.refuseWrite f a).lines.haltLatch = s.lines.haltLatch ∧ (s.refuseWrite f a).lines.force = s.lines.force ∧
    (s.refuseWrite f a).lines.enables = s.lines.enables ∧ (s.refuseWrite f a).lines.pressAbort = s.lines.pressAbort ∧
    (s.refuseWrite f a).lines.resetN = s.lines.resetN := by
  simp [State.refuseWrite]

@[simp] theorem State.dropWaiting_keeps (s : State) (p : PortId) :
    (s.dropWaiting p).writer.producer = s.writer.producer ∧ (s.dropWaiting p).writer.consumer = s.writer.consumer ∧
    (s.dropWaiting p).writer.lap = s.writer.lap ∧ (s.dropWaiting p).writer.memErrAddr = s.writer.memErrAddr ∧
    (s.dropWaiting p).writer.cmdCode = s.writer.cmdCode ∧ (s.dropWaiting p).writer.cmdResult = s.writer.cmdResult ∧
    (s.dropWaiting p).writer.lastIssued = s.writer.lastIssued ∧
    (s.dropWaiting p).writer.loadIssued = s.writer.loadIssued ∧
    (s.dropWaiting p).writer.loadAnswered = s.writer.loadAnswered ∧
    (s.dropWaiting p).lines.haltLatch = s.lines.haltLatch ∧ (s.dropWaiting p).lines.force = s.lines.force ∧
    (s.dropWaiting p).lines.enables = s.lines.enables ∧ (s.dropWaiting p).lines.pressAbort = s.lines.pressAbort ∧
    (s.dropWaiting p).lines.resetN = s.lines.resetN := by
  unfold State.dropWaiting
  split <;> simp

@[simp] theorem State.queueStrokeVerdict_keeps (s : State) (o : StrokeOutcome) :
    (s.queueStrokeVerdict o).writer.producer = s.writer.producer ∧
    (s.queueStrokeVerdict o).writer.consumer = s.writer.consumer ∧ (s.queueStrokeVerdict o).writer.lap = s.writer.lap ∧
    (s.queueStrokeVerdict o).writer.memErrAddr = s.writer.memErrAddr ∧
    (s.queueStrokeVerdict o).writer.cmdCode = s.writer.cmdCode ∧
    (s.queueStrokeVerdict o).writer.cmdResult = s.writer.cmdResult ∧
    (s.queueStrokeVerdict o).writer.lastIssued = s.writer.lastIssued ∧
    (s.queueStrokeVerdict o).writer.loadIssued = s.writer.loadIssued ∧
    (s.queueStrokeVerdict o).writer.loadAnswered = s.writer.loadAnswered ∧
    (s.queueStrokeVerdict o).lines.haltLatch = s.lines.haltLatch ∧
    (s.queueStrokeVerdict o).lines.force = s.lines.force ∧ (s.queueStrokeVerdict o).lines.enables = s.lines.enables ∧
    (s.queueStrokeVerdict o).lines.pressAbort = s.lines.pressAbort ∧
    (s.queueStrokeVerdict o).lines.resetN = s.lines.resetN := by
  simp [State.queueStrokeVerdict]

@[simp] theorem State.queueEmptySlots_keeps (s : State) (ns : List Nat) :
    (s.queueEmptySlots ns).writer.producer = s.writer.producer ∧
    (s.queueEmptySlots ns).writer.consumer = s.writer.consumer ∧ (s.queueEmptySlots ns).writer.lap = s.writer.lap ∧
    (s.queueEmptySlots ns).writer.memErrAddr = s.writer.memErrAddr ∧
    (s.queueEmptySlots ns).writer.cmdCode = s.writer.cmdCode ∧
    (s.queueEmptySlots ns).writer.cmdResult = s.writer.cmdResult ∧
    (s.queueEmptySlots ns).writer.lastIssued = s.writer.lastIssued ∧
    (s.queueEmptySlots ns).writer.loadIssued = s.writer.loadIssued ∧
    (s.queueEmptySlots ns).writer.loadAnswered = s.writer.loadAnswered ∧
    (s.queueEmptySlots ns).lines.haltLatch = s.lines.haltLatch ∧ (s.queueEmptySlots ns).lines.force = s.lines.force ∧
    (s.queueEmptySlots ns).lines.enables = s.lines.enables ∧
    (s.queueEmptySlots ns).lines.pressAbort = s.lines.pressAbort ∧ (s.queueEmptySlots ns).lines.resetN = s.lines.resetN := by
  induction ns generalizing s with
  | nil => simp [State.queueEmptySlots]
  | cons n ns ih =>
    rw [State.queueEmptySlots]
    have h := ih (if Plan.active s.stroke.latched n then s.enqueue (.slot (s.composeEmptySlot n)) else s)
    revert h
    split <;> simp

@[simp] theorem State.startWalk_keeps (s : State) (o : StrokeOutcome) :
    (s.startWalk o).writer.producer = s.writer.producer ∧ (s.startWalk o).writer.consumer = s.writer.consumer ∧
    (s.startWalk o).writer.lap = s.writer.lap ∧ (s.startWalk o).writer.memErrAddr = s.writer.memErrAddr ∧
    (s.startWalk o).writer.cmdCode = s.writer.cmdCode ∧ (s.startWalk o).writer.cmdResult = s.writer.cmdResult ∧
    (s.startWalk o).writer.lastIssued = s.writer.lastIssued ∧ (s.startWalk o).writer.loadIssued = s.writer.loadIssued ∧
    (s.startWalk o).writer.loadAnswered = s.writer.loadAnswered ∧ (s.startWalk o).lines.haltLatch = s.lines.haltLatch ∧
    (s.startWalk o).lines.force = s.lines.force ∧ (s.startWalk o).lines.enables = s.lines.enables ∧
    (s.startWalk o).lines.pressAbort = s.lines.pressAbort ∧ (s.startWalk o).lines.resetN = s.lines.resetN := by
  unfold State.startWalk
  split <;> simp

@[simp] theorem State.endStroke_keeps (s : State) (o : StrokeOutcome) :
    (s.endStroke o).writer.producer = s.writer.producer ∧ (s.endStroke o).writer.consumer = s.writer.consumer ∧
    (s.endStroke o).writer.lap = s.writer.lap ∧ (s.endStroke o).writer.memErrAddr = s.writer.memErrAddr ∧
    (s.endStroke o).writer.cmdCode = s.writer.cmdCode ∧ (s.endStroke o).writer.cmdResult = s.writer.cmdResult ∧
    (s.endStroke o).writer.lastIssued = s.writer.lastIssued ∧ (s.endStroke o).writer.loadIssued = s.writer.loadIssued ∧
    (s.endStroke o).writer.loadAnswered = s.writer.loadAnswered ∧ (s.endStroke o).lines.haltLatch = s.lines.haltLatch ∧
    (s.endStroke o).lines.force = s.lines.force ∧ (s.endStroke o).lines.enables = s.lines.enables ∧
    (s.endStroke o).lines.pressAbort = s.lines.pressAbort ∧ (s.endStroke o).lines.resetN = s.lines.resetN := by
  unfold State.endStroke
  dsimp only
  split <;> (try split) <;> simp

@[simp] theorem State.cutClosing_keeps (s : State) (o : StrokeOutcome) :
    (s.cutClosing o).writer.producer = s.writer.producer ∧ (s.cutClosing o).writer.consumer = s.writer.consumer ∧
    (s.cutClosing o).writer.lap = s.writer.lap ∧ (s.cutClosing o).writer.memErrAddr = s.writer.memErrAddr ∧
    (s.cutClosing o).writer.cmdCode = s.writer.cmdCode ∧ (s.cutClosing o).writer.cmdResult = s.writer.cmdResult ∧
    (s.cutClosing o).writer.lastIssued = s.writer.lastIssued ∧
    (s.cutClosing o).writer.loadIssued = s.writer.loadIssued ∧
    (s.cutClosing o).writer.loadAnswered = s.writer.loadAnswered ∧
    (s.cutClosing o).lines.haltLatch = s.lines.haltLatch ∧ (s.cutClosing o).lines.force = s.lines.force ∧
    (s.cutClosing o).lines.enables = s.lines.enables ∧ (s.cutClosing o).lines.pressAbort = s.lines.pressAbort ∧
    (s.cutClosing o).lines.resetN = s.lines.resetN := by
  simp [State.cutClosing]

@[simp] theorem State.hardChange_keeps (s : State) :
    s.hardChange.writer.producer = s.writer.producer ∧ s.hardChange.writer.consumer = s.writer.consumer ∧
    s.hardChange.writer.lap = s.writer.lap ∧ s.hardChange.writer.memErrAddr = s.writer.memErrAddr ∧
    s.hardChange.writer.cmdCode = s.writer.cmdCode ∧ s.hardChange.writer.cmdResult = s.writer.cmdResult ∧
    s.hardChange.writer.lastIssued = s.writer.lastIssued ∧ s.hardChange.writer.loadIssued = s.writer.loadIssued ∧
    s.hardChange.writer.loadAnswered = s.writer.loadAnswered ∧ s.hardChange.lines.haltLatch = s.lines.haltLatch ∧
    s.hardChange.lines.force = s.lines.force ∧ s.hardChange.lines.enables = s.lines.enables ∧
    s.hardChange.lines.pressAbort = s.lines.pressAbort ∧ s.hardChange.lines.resetN = s.lines.resetN := by
  unfold State.hardChange
  split <;> simp

@[simp] theorem State.discardPending_keeps (s : State) :
    s.discardPending.writer.producer = s.writer.producer ∧ s.discardPending.writer.consumer = s.writer.consumer ∧
    s.discardPending.writer.lap = s.writer.lap ∧ s.discardPending.writer.memErrAddr = s.writer.memErrAddr ∧
    s.discardPending.writer.cmdCode = s.writer.cmdCode ∧ s.discardPending.writer.cmdResult = s.writer.cmdResult ∧
    s.discardPending.writer.lastIssued = s.writer.lastIssued ∧
    s.discardPending.writer.loadIssued = s.writer.loadIssued ∧
    s.discardPending.writer.loadAnswered = s.writer.loadAnswered ∧
    s.discardPending.lines.haltLatch = s.lines.haltLatch ∧ s.discardPending.lines.force = s.lines.force ∧
    s.discardPending.lines.enables = s.lines.enables ∧ s.discardPending.lines.pressAbort = s.lines.pressAbort ∧
    s.discardPending.lines.resetN = s.lines.resetN := by
  unfold State.discardPending
  split <;> simp

@[simp] theorem State.discardPins_keeps (s : State) :
    s.discardPins.writer.producer = s.writer.producer ∧ s.discardPins.writer.consumer = s.writer.consumer ∧
    s.discardPins.writer.lap = s.writer.lap ∧ s.discardPins.writer.memErrAddr = s.writer.memErrAddr ∧
    s.discardPins.writer.cmdCode = s.writer.cmdCode ∧ s.discardPins.writer.cmdResult = s.writer.cmdResult ∧
    s.discardPins.writer.lastIssued = s.writer.lastIssued ∧ s.discardPins.writer.loadIssued = s.writer.loadIssued ∧
    s.discardPins.writer.loadAnswered = s.writer.loadAnswered ∧ s.discardPins.lines.haltLatch = s.lines.haltLatch ∧
    s.discardPins.lines.force = s.lines.force ∧ s.discardPins.lines.enables = s.lines.enables ∧
    s.discardPins.lines.pressAbort = s.lines.pressAbort ∧ s.discardPins.lines.resetN = s.lines.resetN := by
  unfold State.discardPins
  dsimp only
  split <;> split <;> simp

@[simp] theorem State.abort_keeps (s : State) :
    s.abort.1.writer.producer = s.writer.producer ∧ s.abort.1.writer.consumer = s.writer.consumer ∧
    s.abort.1.writer.lap = s.writer.lap ∧ s.abort.1.writer.memErrAddr = s.writer.memErrAddr ∧
    s.abort.1.writer.cmdCode = s.writer.cmdCode ∧ s.abort.1.writer.cmdResult = s.writer.cmdResult ∧
    s.abort.1.writer.lastIssued = s.writer.lastIssued ∧ s.abort.1.writer.loadIssued = s.writer.loadIssued ∧
    s.abort.1.writer.loadAnswered = s.writer.loadAnswered ∧ s.abort.1.lines.haltLatch = s.lines.haltLatch ∧
    s.abort.1.lines.force = s.lines.force ∧ s.abort.1.lines.enables = s.lines.enables ∧
    s.abort.1.lines.pressAbort = s.lines.pressAbort ∧ s.abort.1.lines.resetN = s.lines.resetN := by
  unfold State.abort
  split <;> simp

@[simp] theorem State.pendPlan_keeps (s : State) :
    s.pendPlan.writer.producer = s.writer.producer ∧ s.pendPlan.writer.consumer = s.writer.consumer ∧
    s.pendPlan.writer.lap = s.writer.lap ∧ s.pendPlan.writer.memErrAddr = s.writer.memErrAddr ∧
    s.pendPlan.writer.cmdCode = s.writer.cmdCode ∧ s.pendPlan.writer.cmdResult = s.writer.cmdResult ∧
    s.pendPlan.writer.lastIssued = s.writer.lastIssued ∧ s.pendPlan.writer.loadIssued = s.writer.loadIssued ∧
    s.pendPlan.writer.loadAnswered = s.writer.loadAnswered ∧ s.pendPlan.lines.haltLatch = s.lines.haltLatch ∧
    s.pendPlan.lines.force = s.lines.force ∧ s.pendPlan.lines.enables = s.lines.enables ∧
    s.pendPlan.lines.pressAbort = s.lines.pressAbort ∧ s.pendPlan.lines.resetN = s.lines.resetN := by
  unfold State.pendPlan
  dsimp only
  split <;> simp

@[simp] theorem State.armRequest_keeps (s : State) :
    s.armRequest.writer.producer = s.writer.producer ∧ s.armRequest.writer.consumer = s.writer.consumer ∧
    s.armRequest.writer.lap = s.writer.lap ∧ s.armRequest.writer.memErrAddr = s.writer.memErrAddr ∧
    s.armRequest.writer.cmdCode = s.writer.cmdCode ∧ s.armRequest.writer.cmdResult = s.writer.cmdResult ∧
    s.armRequest.writer.lastIssued = s.writer.lastIssued ∧ s.armRequest.writer.loadIssued = s.writer.loadIssued ∧
    s.armRequest.writer.loadAnswered = s.writer.loadAnswered ∧ s.armRequest.lines.haltLatch = s.lines.haltLatch ∧
    s.armRequest.lines.force = s.lines.force ∧ s.armRequest.lines.enables = s.lines.enables ∧
    s.armRequest.lines.pressAbort = s.lines.pressAbort ∧ s.armRequest.lines.resetN = s.lines.resetN := by
  unfold State.armRequest
  split <;> simp

@[simp] theorem State.queuePin_keeps (s : State) (c : Nat) :
    (s.queuePin c).writer.producer = s.writer.producer ∧ (s.queuePin c).writer.consumer = s.writer.consumer ∧
    (s.queuePin c).writer.lap = s.writer.lap ∧ (s.queuePin c).writer.memErrAddr = s.writer.memErrAddr ∧
    (s.queuePin c).writer.cmdCode = s.writer.cmdCode ∧ (s.queuePin c).writer.cmdResult = s.writer.cmdResult ∧
    (s.queuePin c).writer.lastIssued = s.writer.lastIssued ∧ (s.queuePin c).writer.loadIssued = s.writer.loadIssued ∧
    (s.queuePin c).writer.loadAnswered = s.writer.loadAnswered ∧ (s.queuePin c).lines.haltLatch = s.lines.haltLatch ∧
    (s.queuePin c).lines.force = s.lines.force ∧ (s.queuePin c).lines.enables = s.lines.enables ∧
    (s.queuePin c).lines.pressAbort = s.lines.pressAbort ∧ (s.queuePin c).lines.resetN = s.lines.resetN := by
  simp [State.queuePin]

@[simp] theorem State.omitPin_keeps (s : State) (c : Nat) :
    (s.omitPin c).writer.producer = s.writer.producer ∧ (s.omitPin c).writer.consumer = s.writer.consumer ∧
    (s.omitPin c).writer.lap = s.writer.lap ∧ (s.omitPin c).writer.memErrAddr = s.writer.memErrAddr ∧
    (s.omitPin c).writer.cmdCode = s.writer.cmdCode ∧ (s.omitPin c).writer.cmdResult = s.writer.cmdResult ∧
    (s.omitPin c).writer.lastIssued = s.writer.lastIssued ∧ (s.omitPin c).writer.loadIssued = s.writer.loadIssued ∧
    (s.omitPin c).writer.loadAnswered = s.writer.loadAnswered ∧ (s.omitPin c).lines.haltLatch = s.lines.haltLatch ∧
    (s.omitPin c).lines.force = s.lines.force ∧ (s.omitPin c).lines.enables = s.lines.enables ∧
    (s.omitPin c).lines.pressAbort = s.lines.pressAbort ∧ (s.omitPin c).lines.resetN = s.lines.resetN := by
  simp [State.omitPin, State.walkOn]

@[simp] theorem State.reportPin_keeps (s : State) (c : Nat) :
    (s.reportPin c).writer.producer = s.writer.producer ∧ (s.reportPin c).writer.consumer = s.writer.consumer ∧
    (s.reportPin c).writer.lap = s.writer.lap ∧ (s.reportPin c).writer.memErrAddr = s.writer.memErrAddr ∧
    (s.reportPin c).writer.cmdCode = s.writer.cmdCode ∧ (s.reportPin c).writer.cmdResult = s.writer.cmdResult ∧
    (s.reportPin c).writer.lastIssued = s.writer.lastIssued ∧ (s.reportPin c).writer.loadIssued = s.writer.loadIssued ∧
    (s.reportPin c).writer.loadAnswered = s.writer.loadAnswered ∧ (s.reportPin c).lines.haltLatch = s.lines.haltLatch ∧
    (s.reportPin c).lines.force = s.lines.force ∧ (s.reportPin c).lines.enables = s.lines.enables ∧
    (s.reportPin c).lines.pressAbort = s.lines.pressAbort ∧ (s.reportPin c).lines.resetN = s.lines.resetN := by
  unfold State.reportPin
  repeat' split
  all_goals simp

@[simp] theorem State.markReject_keeps (s : State) (v : SlotVerdict) :
    (s.markReject v).writer.producer = s.writer.producer ∧ (s.markReject v).writer.consumer = s.writer.consumer ∧
    (s.markReject v).writer.lap = s.writer.lap ∧ (s.markReject v).writer.memErrAddr = s.writer.memErrAddr ∧
    (s.markReject v).writer.cmdCode = s.writer.cmdCode ∧ (s.markReject v).writer.cmdResult = s.writer.cmdResult ∧
    (s.markReject v).writer.lastIssued = s.writer.lastIssued ∧
    (s.markReject v).writer.loadIssued = s.writer.loadIssued ∧
    (s.markReject v).writer.loadAnswered = s.writer.loadAnswered ∧
    (s.markReject v).lines.haltLatch = s.lines.haltLatch ∧ (s.markReject v).lines.force = s.lines.force ∧
    (s.markReject v).lines.enables = s.lines.enables ∧ (s.markReject v).lines.pressAbort = s.lines.pressAbort ∧
    (s.markReject v).lines.resetN = s.lines.resetN := by
  unfold State.markReject
  split <;> simp

@[simp] theorem State.nextSlot_keeps (s : State) :
    s.nextSlot.writer.producer = s.writer.producer ∧ s.nextSlot.writer.consumer = s.writer.consumer ∧
    s.nextSlot.writer.lap = s.writer.lap ∧ s.nextSlot.writer.memErrAddr = s.writer.memErrAddr ∧
    s.nextSlot.writer.cmdCode = s.writer.cmdCode ∧ s.nextSlot.writer.cmdResult = s.writer.cmdResult ∧
    s.nextSlot.writer.lastIssued = s.writer.lastIssued ∧ s.nextSlot.writer.loadIssued = s.writer.loadIssued ∧
    s.nextSlot.writer.loadAnswered = s.writer.loadAnswered ∧ s.nextSlot.lines.haltLatch = s.lines.haltLatch ∧
    s.nextSlot.lines.force = s.lines.force ∧ s.nextSlot.lines.enables = s.lines.enables ∧
    s.nextSlot.lines.pressAbort = s.lines.pressAbort ∧ s.nextSlot.lines.resetN = s.lines.resetN := by
  unfold State.nextSlot
  repeat' split
  all_goals simp

@[simp] theorem State.queueSlot_keeps (s : State) :
    s.queueSlot.writer.producer = s.writer.producer ∧ s.queueSlot.writer.consumer = s.writer.consumer ∧
    s.queueSlot.writer.lap = s.writer.lap ∧ s.queueSlot.writer.memErrAddr = s.writer.memErrAddr ∧
    s.queueSlot.writer.cmdCode = s.writer.cmdCode ∧ s.queueSlot.writer.cmdResult = s.writer.cmdResult ∧
    s.queueSlot.writer.lastIssued = s.writer.lastIssued ∧ s.queueSlot.writer.loadIssued = s.writer.loadIssued ∧
    s.queueSlot.writer.loadAnswered = s.writer.loadAnswered ∧ s.queueSlot.lines.haltLatch = s.lines.haltLatch ∧
    s.queueSlot.lines.force = s.lines.force ∧ s.queueSlot.lines.enables = s.lines.enables ∧
    s.queueSlot.lines.pressAbort = s.lines.pressAbort ∧ s.queueSlot.lines.resetN = s.lines.resetN := by
  simp [State.queueSlot]

@[simp] theorem State.reportSlot_keeps (s : State) :
    s.reportSlot.writer.producer = s.writer.producer ∧ s.reportSlot.writer.consumer = s.writer.consumer ∧
    s.reportSlot.writer.lap = s.writer.lap ∧ s.reportSlot.writer.memErrAddr = s.writer.memErrAddr ∧
    s.reportSlot.writer.cmdCode = s.writer.cmdCode ∧ s.reportSlot.writer.cmdResult = s.writer.cmdResult ∧
    s.reportSlot.writer.lastIssued = s.writer.lastIssued ∧ s.reportSlot.writer.loadIssued = s.writer.loadIssued ∧
    s.reportSlot.writer.loadAnswered = s.writer.loadAnswered ∧ s.reportSlot.lines.haltLatch = s.lines.haltLatch ∧
    s.reportSlot.lines.force = s.lines.force ∧ s.reportSlot.lines.enables = s.lines.enables ∧
    s.reportSlot.lines.pressAbort = s.lines.pressAbort ∧ s.reportSlot.lines.resetN = s.lines.resetN := by
  unfold State.reportSlot
  split <;> simp

@[simp] theorem State.walkStep_keeps (s : State) :
    s.walkStep.writer.producer = s.writer.producer ∧ s.walkStep.writer.consumer = s.writer.consumer ∧
    s.walkStep.writer.lap = s.writer.lap ∧ s.walkStep.writer.memErrAddr = s.writer.memErrAddr ∧
    s.walkStep.writer.cmdCode = s.writer.cmdCode ∧ s.walkStep.writer.cmdResult = s.writer.cmdResult ∧
    s.walkStep.writer.lastIssued = s.writer.lastIssued ∧ s.walkStep.writer.loadIssued = s.writer.loadIssued ∧
    s.walkStep.writer.loadAnswered = s.writer.loadAnswered ∧ s.walkStep.lines.haltLatch = s.lines.haltLatch ∧
    s.walkStep.lines.force = s.lines.force ∧ s.walkStep.lines.enables = s.lines.enables ∧
    s.walkStep.lines.pressAbort = s.lines.pressAbort ∧ s.walkStep.lines.resetN = s.lines.resetN := by
  unfold State.walkStep
  split <;> simp

@[simp] theorem State.resumeWalk_keeps (s : State) :
    s.resumeWalk.writer.producer = s.writer.producer ∧ s.resumeWalk.writer.consumer = s.writer.consumer ∧
    s.resumeWalk.writer.lap = s.writer.lap ∧ s.resumeWalk.writer.memErrAddr = s.writer.memErrAddr ∧
    s.resumeWalk.writer.cmdCode = s.writer.cmdCode ∧ s.resumeWalk.writer.cmdResult = s.writer.cmdResult ∧
    s.resumeWalk.writer.lastIssued = s.writer.lastIssued ∧ s.resumeWalk.writer.loadIssued = s.writer.loadIssued ∧
    s.resumeWalk.writer.loadAnswered = s.writer.loadAnswered ∧ s.resumeWalk.lines.haltLatch = s.lines.haltLatch ∧
    s.resumeWalk.lines.force = s.lines.force ∧ s.resumeWalk.lines.enables = s.lines.enables ∧
    s.resumeWalk.lines.pressAbort = s.lines.pressAbort ∧ s.resumeWalk.lines.resetN = s.lines.resetN := by
  unfold State.resumeWalk
  repeat' split
  all_goals simp

@[simp] theorem State.refillEntries_keeps (s : State) :
    s.refillEntries.writer.producer = s.writer.producer ∧ s.refillEntries.writer.consumer = s.writer.consumer ∧
    s.refillEntries.writer.lap = s.writer.lap ∧ s.refillEntries.writer.memErrAddr = s.writer.memErrAddr ∧
    s.refillEntries.writer.cmdCode = s.writer.cmdCode ∧ s.refillEntries.writer.cmdResult = s.writer.cmdResult ∧
    s.refillEntries.writer.lastIssued = s.writer.lastIssued ∧ s.refillEntries.writer.loadIssued = s.writer.loadIssued ∧
    s.refillEntries.writer.loadAnswered = s.writer.loadAnswered ∧ s.refillEntries.lines.haltLatch = s.lines.haltLatch ∧
    s.refillEntries.lines.force = s.lines.force ∧ s.refillEntries.lines.enables = s.lines.enables ∧
    s.refillEntries.lines.pressAbort = s.lines.pressAbort ∧ s.refillEntries.lines.resetN = s.lines.resetN := by
  simp [State.refillEntries]

@[simp] theorem State.endReporting_keeps (s : State) (r : Record) :
    (s.endReporting r).writer.producer = s.writer.producer ∧ (s.endReporting r).writer.consumer = s.writer.consumer ∧
    (s.endReporting r).writer.lap = s.writer.lap ∧ (s.endReporting r).writer.memErrAddr = s.writer.memErrAddr ∧
    (s.endReporting r).writer.cmdCode = s.writer.cmdCode ∧ (s.endReporting r).writer.cmdResult = s.writer.cmdResult ∧
    (s.endReporting r).writer.lastIssued = s.writer.lastIssued ∧
    (s.endReporting r).writer.loadIssued = s.writer.loadIssued ∧
    (s.endReporting r).writer.loadAnswered = s.writer.loadAnswered ∧
    (s.endReporting r).lines.haltLatch = s.lines.haltLatch ∧ (s.endReporting r).lines.force = s.lines.force ∧
    (s.endReporting r).lines.enables = s.lines.enables ∧ (s.endReporting r).lines.pressAbort = s.lines.pressAbort ∧
    (s.endReporting r).lines.resetN = s.lines.resetN := by
  unfold State.endReporting
  split <;> simp

@[simp] theorem State.completionFlags_keeps (s : State) (r : Record) (okay : Bool) :
    (s.completionFlags r okay).writer.producer = s.writer.producer ∧
    (s.completionFlags r okay).writer.consumer = s.writer.consumer ∧
    (s.completionFlags r okay).writer.lap = s.writer.lap ∧
    (s.completionFlags r okay).writer.memErrAddr = s.writer.memErrAddr ∧
    (s.completionFlags r okay).writer.cmdCode = s.writer.cmdCode ∧
    (s.completionFlags r okay).writer.cmdResult = s.writer.cmdResult ∧
    (s.completionFlags r okay).writer.lastIssued = s.writer.lastIssued ∧
    (s.completionFlags r okay).writer.loadIssued = s.writer.loadIssued ∧
    (s.completionFlags r okay).writer.loadAnswered = s.writer.loadAnswered ∧
    (s.completionFlags r okay).lines.haltLatch = s.lines.haltLatch ∧
    (s.completionFlags r okay).lines.force = s.lines.force ∧
    (s.completionFlags r okay).lines.enables = s.lines.enables ∧
    (s.completionFlags r okay).lines.pressAbort = s.lines.pressAbort ∧
    (s.completionFlags r okay).lines.resetN = s.lines.resetN := by
  unfold State.completionFlags
  dsimp only
  repeat' split
  all_goals simp

@[simp] theorem State.armExpiry_keeps (s : State) :
    s.armExpiry.writer.producer = s.writer.producer ∧ s.armExpiry.writer.consumer = s.writer.consumer ∧
    s.armExpiry.writer.lap = s.writer.lap ∧ s.armExpiry.writer.memErrAddr = s.writer.memErrAddr ∧
    s.armExpiry.writer.cmdCode = s.writer.cmdCode ∧ s.armExpiry.writer.cmdResult = s.writer.cmdResult ∧
    s.armExpiry.writer.lastIssued = s.writer.lastIssued ∧ s.armExpiry.writer.loadIssued = s.writer.loadIssued ∧
    s.armExpiry.writer.loadAnswered = s.writer.loadAnswered ∧ s.armExpiry.lines.haltLatch = s.lines.haltLatch ∧
    s.armExpiry.lines.force = s.lines.force ∧ s.armExpiry.lines.enables = s.lines.enables ∧
    s.armExpiry.lines.pressAbort = s.lines.pressAbort ∧ s.armExpiry.lines.resetN = s.lines.resetN := by
  unfold State.armExpiry
  split <;> simp

@[simp] theorem State.stallExpiry_keeps (s : State) :
    s.stallExpiry.writer.producer = s.writer.producer ∧ s.stallExpiry.writer.consumer = s.writer.consumer ∧
    s.stallExpiry.writer.lap = s.writer.lap ∧ s.stallExpiry.writer.memErrAddr = s.writer.memErrAddr ∧
    s.stallExpiry.writer.cmdCode = s.writer.cmdCode ∧ s.stallExpiry.writer.cmdResult = s.writer.cmdResult ∧
    s.stallExpiry.writer.lastIssued = s.writer.lastIssued ∧ s.stallExpiry.writer.loadIssued = s.writer.loadIssued ∧
    s.stallExpiry.writer.loadAnswered = s.writer.loadAnswered ∧ s.stallExpiry.lines.haltLatch = s.lines.haltLatch ∧
    s.stallExpiry.lines.force = s.lines.force ∧ s.stallExpiry.lines.enables = s.lines.enables ∧
    s.stallExpiry.lines.pressAbort = s.lines.pressAbort ∧ s.stallExpiry.lines.resetN = s.lines.resetN := by
  unfold State.stallExpiry
  split <;> simp

/-! ## The report queue -/

@[simp] theorem State.markDirty_queue (s : State) : s.markDirty.writer.queue = s.writer.queue := rfl

@[simp] theorem State.takeUpHead_queue (s : State) : s.takeUpHead.writer.queue = s.writer.queue := by
  unfold State.takeUpHead
  split <;> simp

/-- A record enters behind every record held (R182). -/
@[simp] theorem State.enqueue_queue (s : State) (r : Record) :
    (s.enqueue r).writer.queue = s.writer.queue ++ [{ record := r, issued := false }] := by
  unfold State.enqueue
  dsimp only
  split <;> simp

@[simp] theorem State.enter_queue (s : State) (st : StrokeState) : (s.enter st).writer.queue = s.writer.queue := by simp

@[simp] theorem State.enterIdle_queue (s : State) : s.enterIdle.writer.queue = s.writer.queue := by
  unfold State.enterIdle
  split <;> simp

@[simp] theorem State.queueStrokeVerdict_queue (s : State) (o : StrokeOutcome) :
    (s.queueStrokeVerdict o).writer.queue = s.writer.queue ++ [{ record := .stroke (s.composeStroke o), issued := false }] := by
  simp [State.queueStrokeVerdict, State.stopWalker, State.composeStroke, State.strokeNumber]

/-- The slot verdicts of the zero-sample path enter in the order of the slots (R120). -/
theorem State.queueEmptySlots_queue (s : State) (ns : List Nat) :
    (s.queueEmptySlots ns).writer.queue = s.writer.queue ++
      (ns.filter fun n => Plan.active s.stroke.latched n).map fun n =>
        { record := .slot (s.composeEmptySlot n), issued := false } := by
  induction ns generalizing s with
  | nil => simp [State.queueEmptySlots]
  | cons n ns ih =>
    rw [State.queueEmptySlots, ih]
    by_cases h : Plan.active s.stroke.latched n = true
    · simp [h, State.composeEmptySlot, State.strokeNumber]
    · simp [h]

/-- Entries of a class, after a record has entered. -/
theorem State.entries_enqueue (s : State) (r : Record) (p : Record → Bool) :
    (s.enqueue r).entries p = s.entries p + if p r then 1 else 0 := by
  unfold State.entries
  rw [State.enqueue_queue, List.filter_append, List.length_append]
  congr 1
  cases h : p r <;> simp [h]

/-- The records, after one has entered. -/
theorem State.records_enqueue (s : State) (r : Record) : (s.enqueue r).records = s.records ++ [r] := by
  simp [State.records]

/-- What a state's refusals read. -/
theorem State.refusals_congr {s t : State} (hq : t.writer.queue = s.writer.queue) (ho : t.stroke.owed = s.stroke.owed) :
    t.refusals = s.refusals := by
  unfold State.refusals
  rw [hq, ho]

/-- What a class's count reads. -/
theorem State.entries_congr {s t : State} (hq : t.writer.queue = s.writer.queue) (p : Record → Bool) :
    t.entries p = s.entries p := by
  unfold State.entries
  rw [hq]

/-! ## Refusals -/

/-- A REFUSAL given to the queue stands behind every refusal held (R87). -/
theorem State.queueRefusal_refusals (s : State) (r : RefusalRecord) (h : s.owedOk) :
    (s.queueRefusal r).refusals = s.refusals ++ [r] := by
  unfold State.queueRefusal
  split
  · simp [State.refusals]
  · rename_i hf
    have ho : s.stroke.owed = [] := by
      by_contra hne
      exact hf (h hne)
    simp [State.refusals, Record.refusal?, ho]

/-- It leaves a refusal owed only while the refusal entry is occupied. -/
theorem State.queueRefusal_owedOk (s : State) (r : RefusalRecord) (h : s.owedOk) : (s.queueRefusal r).owedOk := by
  unfold State.queueRefusal
  split
  · rename_i hf
    intro _
    exact hf
  · rename_i hf
    intro hne
    exact absurd (h (by simpa using hne)) hf

/-- It changes nothing of the stroke controller but the owed refusals. -/
theorem State.queueRefusal_stroke (s : State) (r : RefusalRecord) :
    (s.queueRefusal r).stroke =
      { s.stroke with owed := if s.refusalOccupied then s.stroke.owed ++ [r] else s.stroke.owed } := by
  unfold State.queueRefusal
  split <;> simp [*]

/-- The refusal entry holds a REFUSAL after one has been given to the queue. -/
theorem State.queueRefusal_occupied (s : State) (r : RefusalRecord) : (s.queueRefusal r).refusalOccupied = true := by
  unfold State.queueRefusal
  split
  · rename_i hf
    exact hf
  · unfold State.refusalOccupied
    rw [State.entries_enqueue]
    simp [Record.isRefusal]

/-- The hand-off keeps the refusals and their order (R87). -/
theorem State.handOffOwed_refusals (s : State) (h : s.refusalOccupied = false) : s.handOffOwed.refusals = s.refusals := by
  unfold State.handOffOwed
  cases hs : s.stroke.owed with
  | nil => rfl
  | cons r rs => simp [h, State.refusals, Record.refusal?, hs]

/-! ## Notices -/

/-- Outside ARMING a notice does nothing (R138). -/
theorem State.notice_of_not_arming {s : State} (h : s.stroke.state ≠ .arming) (before : BitVec 9) : s.notice before = s := by
  unfold State.notice
  rw [if_neg (fun hh => h hh.2)]

/-- Outside ARMING a raise sets the flag and no more (R135). -/
theorem State.raise_of_not_arming {s : State} (h : s.stroke.state ≠ .arming) (f : EventFlag) : s.raise f = s.setFlag f := by
  unfold State.raise
  exact State.notice_of_not_arming (by simpa using h) _

/-- The end of ARMING, or of REPORTING: to IDLE, or to ARMING with the pending plan (R86). -/
theorem State.enterIdle_stroke (s : State) :
    s.enterIdle.stroke =
      match s.stroke.pendingPlan with
      | none => { s.stroke with state := .idle }
      | some p => { s.stroke with state := .arming, latched := p, walk := .check 1, pendingPlan := none } := by
  unfold State.enterIdle
  cases h : s.stroke.pendingPlan <;> simp [h]

/-- A refused arming adds its REFUSAL to those held (R87). -/
theorem State.refuseArming_refusals (s : State) (r : RefusalRecord) (h : s.owedOk) :
    (s.refuseArming r).refusals = s.refusals ++ [r] := by
  rw [← State.queueRefusal_refusals s r h]
  unfold State.refuseArming
  refine State.refusals_congr (by simp) ?_
  rw [State.enterIdle_stroke]
  split <;> rfl

/-! ## The end of a stroke -/

/-- The STROKE_VERDICT's queueing changes nothing of the stroke controller but its state (R104). -/
theorem State.queueStrokeVerdict_stroke (s : State) (o : StrokeOutcome) :
    (s.queueStrokeVerdict o).stroke = { s.stroke with state := .reporting } := by
  simp [State.queueStrokeVerdict, State.stopWalker]

/-- The walk's start changes nothing of the stroke controller but its state (R102). -/
theorem State.startWalk_stroke (s : State) (o : StrokeOutcome) :
    (s.startWalk o).stroke = { s.stroke with state := .closing } ∨ (s.startWalk o).stroke = { s.stroke with state := .reporting } := by
  unfold State.startWalk
  split
  · left
    simp
  · right
    exact State.queueStrokeVerdict_stroke s o

/-- Outside ARMING, the end of a wait for room changes nothing of the stroke controller (R62). -/
theorem State.dropWaiting_stroke {s : State} (h : s.stroke.state ≠ .arming) (p : PortId) : (s.dropWaiting p).stroke = s.stroke := by
  have e : ∀ (t : State) (f : EventFlag) (a : Word), t.stroke = s.stroke → (t.refuseWrite f a).stroke = s.stroke := by
    intro t f a ht
    unfold State.refuseWrite
    rw [State.raise_of_not_arming (by simpa [ht] using h)]
    simpa using ht
  unfold State.dropWaiting
  split
  · exact e _ _ _ (by simp)
  all_goals rfl

/-- A stroke that ends: its outcome, both timers stopped, CLOSING or REPORTING, and nothing else of the stroke controller (R95). -/
theorem State.endStroke_stroke (s : State) (o : StrokeOutcome) :
    ∃ st, (st = .closing ∨ st = .reporting) ∧
      (s.endStroke o).stroke = { s.stroke with outcome := some o, armTimer := none, stallTimer := none, state := st } := by
  have step2 : ∀ (u : State) (st : StrokeState), (st = .closing ∨ st = .reporting) →
      u.stroke = { s.stroke with outcome := some o, armTimer := none, stallTimer := none, state := st } →
      ((u.dropWaiting .a).dropWaiting .s).stroke =
        { s.stroke with outcome := some o, armTimer := none, stallTimer := none, state := st } := by
    intro u st hst hu
    have h1 : u.stroke.state ≠ .arming := by rw [hu]; rcases hst with h | h <;> simp [h]
    have h2 : (u.dropWaiting .a).stroke = u.stroke := State.dropWaiting_stroke h1 .a
    rw [State.dropWaiting_stroke (by rw [h2]; exact h1) .s, h2, hu]
  unfold State.endStroke
  dsimp only
  split
  · exact ⟨.reporting, .inr rfl, step2 _ _ (.inr rfl) (by rw [State.queueStrokeVerdict_stroke]; rfl)⟩
  · split
    · exact ⟨.reporting, .inr rfl, step2 _ _ (.inr rfl) (by rw [State.queueStrokeVerdict_stroke]; simp)⟩
    · rcases State.startWalk_stroke (s.setOutcome o) o with h | h
      · exact ⟨.closing, .inl rfl, step2 _ _ (.inl rfl) (by rw [h]; rfl)⟩
      · exact ⟨.reporting, .inr rfl, step2 _ _ (.inr rfl) (by rw [h]; rfl)⟩

/-! ## The lines, and the end of a wait for room -/

/-- The lines after a record has entered: RING_WAIT set where it enters an empty queue on a full ring, the report writer free (R185). -/
theorem State.enqueue_lines (s : State) (r : Record) :
    (s.enqueue r).lines = if s.writer.queue = [] ∧ s.ringFull = true ∧ s.writerBusy = false then
      { s.lines with flags := s.lines.flags ||| 0x20#9 } else s.lines := by
  unfold State.enqueue
  dsimp only
  cases hq : s.writer.queue with
  | nil =>
    let u (x : ReportEntry) : State := { s with writer := { s.writer with queue := [x], waitMarked := false } }
    have full : ∀ x, (u x).ringFull = s.ringFull := fun _ => rfl
    have busy : ∀ x, (u x).writerBusy = s.writerBusy := fun _ => rfl
    simp only [u] at full busy
    simp only [List.isEmpty_nil, if_true, State.takeUpHead, List.nil_append, full, busy]
    cases s.ringFull <;> cases s.writerBusy <;> simp [EventFlag.bit]
    rfl
  | cons x xs => simp

/-- The lines after the STROKE_VERDICT's queueing (R104, R185). -/
theorem State.queueStrokeVerdict_lines (s : State) (o : StrokeOutcome) :
    (s.queueStrokeVerdict o).lines = if s.writer.queue = [] ∧ s.ringFull = true ∧ s.writerBusy = false then
      { s.lines with flags := s.lines.flags ||| 0x20#9 } else s.lines := by
  have e : (s.queueStrokeVerdict o).lines = (s.stopWalker.enqueue (.stroke (s.composeStroke o))).lines := by
    simp [State.queueStrokeVerdict, State.stopWalker, State.composeStroke, State.strokeNumber]
  rw [e, State.enqueue_lines]
  rfl

/-- A flag other than RING_WAIT, after a record has entered. -/
theorem State.flagSet_enqueue (s : State) (r : Record) {f : EventFlag} (h : f ≠ .ringWait) :
    (s.enqueue r).flagSet f = s.flagSet f := by
  unfold State.flagSet
  rw [State.enqueue_lines]
  split
  · cases f <;> simp [EventFlag.bit] at h ⊢
  · rfl

/-- A port that waits for room no write is left as it is (R62). -/
theorem State.dropWaiting_of_not {s : State} {p : PortId} (h : ∀ w, (s.port p).status ≠ .waiting (.write w) .room) :
    s.dropWaiting p = s := by
  unfold State.dropWaiting
  split
  · rename_i w e
    exact absurd e (h w)
  all_goals rfl

/-- Outside ARMING, the landing write that waits for room is answered DROPPED, its address captured and STRAY set (R56, R62, R139). -/
theorem State.dropWaiting_of_waiting {s : State} {p : PortId} {w : Write} (h : s.stroke.state ≠ .arming)
    (hw : (s.port p).status = .waiting (.write w) .room) :
    s.dropWaiting p = ((s.answer p .dropped).captureRefused w.addr).setFlag .stray := by
  unfold State.dropWaiting
  rw [hw]
  dsimp only
  unfold State.refuseWrite
  rw [State.raise_of_not_arming (by simpa using h)]

/-- Outside ARMING, the end of a wait for room leaves the report queue (R62). -/
theorem State.dropWaiting_queue {s : State} (h : s.stroke.state ≠ .arming) (p : PortId) :
    (s.dropWaiting p).writer.queue = s.writer.queue := by
  by_cases hw : ∃ w, (s.port p).status = .waiting (.write w) .room
  · obtain ⟨w, hw⟩ := hw
    rw [State.dropWaiting_of_waiting h hw, State.captureRefused]
    split <;> simp
  · rw [State.dropWaiting_of_not (fun w e => hw ⟨w, e⟩)]

/-- The end of a wait for room at one port leaves the other (R62). -/
theorem State.dropWaiting_port_ne {s : State} (h : s.stroke.state ≠ .arming) {p q : PortId} (hq : q ≠ p) :
    (s.dropWaiting p).port q = s.port q := by
  by_cases hw : ∃ w, (s.port p).status = .waiting (.write w) .room
  · obtain ⟨w, hw⟩ := hw
    rw [State.dropWaiting_of_waiting h hw]
    cases p <;> cases q <;> simp_all [State.port, State.answer, State.setPort]
  · rw [State.dropWaiting_of_not (fun w e => hw ⟨w, e⟩)]

/-- What the drop of a waiting landing write leaves at its port and in the lines (R56, R62, R139). -/
theorem State.dropWaiting_dropped {s : State} {p : PortId} {w : Write} (h : s.stroke.state ≠ .arming)
    (hw : (s.port p).status = .waiting (.write w) .room) :
    ((s.dropWaiting p).port p).status = .free ∧ ((s.dropWaiting p).port p).answer = some .dropped ∧
      (s.dropWaiting p).flagSet .stray = true ∧
      (s.flagSet .protect = false → s.flagSet .stray = false → (s.dropWaiting p).lines.firstRefused = w.addr) := by
  have hp : (((s.answer p .dropped).captureRefused w.addr).setFlag .stray).port p = (s.answer p .dropped).port p :=
    State.port_congr (by simp) (by simp) p
  rw [State.dropWaiting_of_waiting h hw, hp]
  refine ⟨by simp, by simp, by simp [State.flagSet, EventFlag.bit], fun h1 h2 => ?_⟩
  have h3 : ∀ f, (s.answer p .dropped).flagSet f = s.flagSet f := fun f => by simp [State.flagSet]
  simp [State.captureRefused, h1, h2, h3]

/-- A set flag stays set when a wait for room ends (R135). -/
theorem State.dropWaiting_flagSet {s : State} (h : s.stroke.state ≠ .arming) (p : PortId) {f : EventFlag}
    (hf : s.flagSet f = true) : (s.dropWaiting p).flagSet f = true := by
  by_cases hw : ∃ w, (s.port p).status = .waiting (.write w) .room
  · obtain ⟨w, hw⟩ := hw
    rw [State.dropWaiting_of_waiting h hw]
    have e : ((s.answer p .dropped).captureRefused w.addr).lines.flags = s.lines.flags := by
      unfold State.captureRefused
      split <;> simp
    unfold State.flagSet at hf ⊢
    simp [e, hf]
  · rw [State.dropWaiting_of_not (fun w e => hw ⟨w, e⟩), hf]

/-- The end of the waits for room of both ports (R62, R95). -/
theorem State.roomWaitDropped_both {s : State} (h : s.stroke.state ≠ .arming) :
    s.roomWaitDropped ((s.dropWaiting .a).dropWaiting .s) := by
  have ha : (s.dropWaiting .a).stroke.state ≠ .arming := by rw [State.dropWaiting_stroke h]; exact h
  intro p w hw
  cases p with
  | a =>
    obtain ⟨h1, h2, h3, h4⟩ := State.dropWaiting_dropped h hw
    rw [State.dropWaiting_port_ne ha (by decide : PortId.a ≠ PortId.s)]
    refine ⟨h1, h2, State.dropWaiting_flagSet ha _ h3, fun hn e1 e2 => ?_⟩
    rw [State.dropWaiting_of_not (p := .s), h4 e1 e2]
    intro v
    rw [State.dropWaiting_port_ne h (by decide : PortId.s ≠ PortId.a)]
    exact hn .s v (by decide)
  | s =>
    have hw' : ((s.dropWaiting .a).port .s).status = .waiting (.write w) .room := by
      rw [State.dropWaiting_port_ne h (by decide : PortId.s ≠ PortId.a)]
      exact hw
    obtain ⟨h1, h2, h3, h4⟩ := State.dropWaiting_dropped ha hw'
    refine ⟨h1, h2, h3, fun hn e1 e2 => ?_⟩
    have e : s.dropWaiting .a = s := State.dropWaiting_of_not fun v => hn .a v (by decide)
    rw [e] at h4 ⊢
    exact h4 e1 e2

/-- What the drop of the waits for room reads before it: the ports and the flags PROTECT and STRAY. -/
theorem State.roomWaitDropped_of {s u t : State} (hA : u.portA = s.portA) (hS : u.portS = s.portS)
    (hf : u.flagSet .protect = s.flagSet .protect) (hg : u.flagSet .stray = s.flagSet .stray) (h : u.roomWaitDropped t) :
    s.roomWaitDropped t := by
  have hp : ∀ p, u.port p = s.port p := fun p => State.port_congr hA hS p
  unfold State.roomWaitDropped at h ⊢
  simpa only [hp, hf, hg] using h

/-- A flag other than RING_WAIT, after the slot verdicts of the zero-sample path. -/
theorem State.flagSet_queueEmptySlots (s : State) (ns : List Nat) {f : EventFlag} (h : f ≠ .ringWait) :
    (s.queueEmptySlots ns).flagSet f = s.flagSet f := by
  induction ns generalizing s with
  | nil => rfl
  | cons n ns ih =>
    rw [State.queueEmptySlots, ih]
    split
    · exact State.flagSet_enqueue s _ h
    · rfl

/-- A flag other than RING_WAIT, after the STROKE_VERDICT's queueing. -/
theorem State.flagSet_queueStrokeVerdict (s : State) (o : StrokeOutcome) {f : EventFlag} (h : f ≠ .ringWait) :
    (s.queueStrokeVerdict o).flagSet f = s.flagSet f := by
  unfold State.flagSet
  rw [State.queueStrokeVerdict_lines]
  split
  · cases f <;> simp [EventFlag.bit] at h ⊢
  · rfl

/-- A flag other than RING_WAIT, after the walk's start. -/
theorem State.flagSet_startWalk (s : State) (o : StrokeOutcome) {f : EventFlag} (h : f ≠ .ringWait) :
    (s.startWalk o).flagSet f = s.flagSet f := by
  unfold State.startWalk
  split
  · simp [State.flagSet]
  · exact State.flagSet_queueStrokeVerdict s o h

/-- A stroke that ends drops the landing write that waits for room (R62, R95). -/
theorem State.endStroke_roomWaitDropped (s : State) (o : StrokeOutcome) : s.roomWaitDropped (s.endStroke o) := by
  have hs : ∀ st, st = StrokeState.closing ∨ st = .reporting → st ≠ .arming := by
    rintro _ (rfl | rfl) <;> decide
  unfold State.endStroke
  dsimp only
  split
  · refine State.roomWaitDropped_of ?_ ?_ ?_ ?_ (State.roomWaitDropped_both ?_)
    · simp
    · simp
    · exact State.flagSet_queueStrokeVerdict _ o (by decide)
    · exact State.flagSet_queueStrokeVerdict _ o (by decide)
    · simp [State.queueStrokeVerdict_stroke]
  · split
    · refine State.roomWaitDropped_of ?_ ?_ ?_ ?_ (State.roomWaitDropped_both ?_)
      · simp
      · simp
      · rw [State.flagSet_queueStrokeVerdict _ o (by decide), State.flagSet_queueEmptySlots _ _ (by decide)]; rfl
      · rw [State.flagSet_queueStrokeVerdict _ o (by decide), State.flagSet_queueEmptySlots _ _ (by decide)]; rfl
      · simp [State.queueStrokeVerdict_stroke]
    · refine State.roomWaitDropped_of ?_ ?_ ?_ ?_ (State.roomWaitDropped_both ?_)
      · simp
      · simp
      · exact State.flagSet_startWalk _ o (by decide)
      · exact State.flagSet_startWalk _ o (by decide)
      · rcases State.startWalk_stroke (s.setOutcome o) o with h | h <;> simp [h]

/-! ## The path of a stroke that ends -/

/-- The lowest active slot numbered at least m is the one that is active with no active slot from m below it. -/
theorem activeFrom_eq_some {p : Plan} {m n : Nat} (hm : m ≤ n) (hn : n < 4) (ha : Plan.active p n = true)
    (hl : ∀ k, m ≤ k → k < n → Plan.active p k = false) : activeFrom p m = some n := by
  unfold activeFrom
  have hk : ∀ k, k < n → (decide (m ≤ k) && Plan.active p k) = false := by
    intro k h
    by_cases h2 : m ≤ k
    · simp [hl k h2 h]
    · simp [h2]
  have ht : (decide (m ≤ n) && Plan.active p n) = true := by simp [hm, ha]
  rw [List.find?_eq_some_iff_append]
  refine ⟨ht, List.range n, (List.range 4).drop (n + 1), by interval_cases n <;> rfl, fun k h => ?_⟩
  rw [hk k (List.mem_range.mp h)]
  rfl

/-- No slot numbered at least m is active when none is the lowest. -/
theorem activeFrom_eq_none {p : Plan} {m : Nat} (h : activeFrom p m = none) :
    ∀ n, m ≤ n → n < 4 → Plan.active p n = false := by
  intro n hm hn
  unfold activeFrom at h
  rw [List.find?_eq_none] at h
  have := h n (by interval_cases n <;> simp)
  simpa [hm] using this

/-- What the end of the waits for room of both ports leaves (R62). -/
theorem State.dropWaiting_both_keeps {s : State} (h : s.stroke.state ≠ .arming) :
    ((s.dropWaiting .a).dropWaiting .s).stroke = s.stroke ∧
      ((s.dropWaiting .a).dropWaiting .s).writer.queue = s.writer.queue := by
  have h1 : (s.dropWaiting .a).stroke = s.stroke := State.dropWaiting_stroke h .a
  have ha : (s.dropWaiting .a).stroke.state ≠ .arming := by rw [h1]; exact h
  exact ⟨by rw [State.dropWaiting_stroke ha, h1], by rw [State.dropWaiting_queue ha, State.dropWaiting_queue h]⟩

/-- A stroke that ends with no sample taken, other than by a hard change, takes the zero-sample path (R102, R120). -/
theorem State.endStroke_endedEmpty {s : State} {o : StrokeOutcome} (ho : o ≠ .recipeChanged) (h0 : s.stroke.samplesTaken = 0) :
    s.endedEmpty (s.endStroke o) o := by
  have e : s.endStroke o = ((((s.setOutcome o).queueEmptySlots [0, 1, 2, 3]).queueStrokeVerdict o).dropWaiting .a).dropWaiting .s := by
    simp [State.endStroke, ho, h0]
  obtain ⟨k1, k2⟩ := State.dropWaiting_both_keeps (s := ((s.setOutcome o).queueEmptySlots [0, 1, 2, 3]).queueStrokeVerdict o)
    (by simp [State.queueStrokeVerdict_stroke])
  unfold State.endedEmpty
  rw [e, k1]
  refine ⟨by simp [State.queueStrokeVerdict_stroke], by simp [State.queueStrokeVerdict], ?_⟩
  unfold State.records
  rw [k2, State.queueStrokeVerdict_queue, State.queueEmptySlots_queue]
  simp [State.composeStroke, State.composeEmptySlot, State.strokeNumber, Function.comp_def]

/-- A stroke that ends with samples taken, other than by a hard change, begins the closing walk, where a slot is active, and queues
nothing (R102, R109). -/
theorem State.endStroke_walkBegun {s : State} {o : StrokeOutcome} (ho : o ≠ .recipeChanged) (h0 : s.stroke.samplesTaken ≠ 0) :
    s.walkBegun (s.endStroke o) ∧
      ((∃ n < 4, Plan.active s.stroke.latched n = true) → (s.endStroke o).writer.queue = s.writer.queue) := by
  have e : s.endStroke o = (((s.setOutcome o).startWalk o).dropWaiting .a).dropWaiting .s := by
    simp [State.endStroke, ho, h0]
  obtain ⟨k1, k2⟩ := State.dropWaiting_both_keeps (s := (s.setOutcome o).startWalk o)
    (by rcases State.startWalk_stroke (s.setOutcome o) o with h | h <;> simp [h])
  refine ⟨fun n hn ha hl => ?_, fun ⟨n, hn, ha⟩ => ?_⟩
  · have hf : activeFrom s.stroke.latched 0 = some n := activeFrom_eq_some (Nat.zero_le n) hn ha fun k _ h => hl k h
    rw [e, k1]
    simp [State.startWalk, hf]
  · rw [e, k2]
    cases hf : activeFrom s.stroke.latched 0 with
    | none => simp [activeFrom_eq_none hf n (Nat.zero_le n) hn] at ha
    | some k => simp [State.startWalk, hf]

end Sys2Proof.Machine
end

