-- ==== Sys2Proof/Tests/Slice0.lean ====
section
/-! SUPPORT. Tests of the definitions: an ill-formed and a well-formed term for each check of WellFormed, the spec's worked
examples in small, and one or two steps for each command. -/

namespace Sys2Proof.Tests

open Sys2Proof Sys2Proof.Machine

-- One theorem after another: the evaluations of the tests would each take a thread.
set_option Elab.async false

/-! ## Small states -/

/-- The state after a command (the state itself if the command does not answer one). -/
def after (c : Instr) (s : State) : State :=
  match exec c s with
  | .next t => t
  | .fault _ => s
  | .refused _ => s

/-- A one-beat write of a whole word. -/
def word (a d : Nat) : Write := { addr := toAddr a, beats := [fullBeat (toAddr d)] }

/-- A buffer with these words. -/
def memOf (ws : List (Nat × Nat)) : Memory := ws.foldl (fun m x => m.writeBeat x.1 (fullBeat (toAddr x.2))) []

/-- A plan by its first five words, its go word 1. -/
def planOf (a b c d e : Nat) : Plan := #v[toAddr a, toAddr b, toAddr c, toAddr d, toAddr e, 0, 0, 1]

/-- The part in IDLE after an empty load, the control region at 2000_0000h. -/
def idle : State := { State.reset with
  ctrlBase := 1
  stroke := { State.reset.stroke with state := .idle }
  writer := { State.reset.writer with loadIssued := 145, loadAnswered := 145 } }

/-- The idle part with its stroke controller in this state. -/
def inState (st : StrokeState) : State := { idle with stroke := { idle.stroke with state := st } }

/-- The geometry of the 8-cell tool of spec/03's worked example, with slot 0 over its cells, halt-on-halting set, and the pin of
cell 5 checked against profile 0: one TRAVEL zone over steps 0..3, absolute limit 3000. -/
def tool8 : Memory := memOf
  [ (0x0, 8), (0x4, 0x50000000), (0x8, 0x50001000), (0xC, 0x50010000), (0x10, 16), (0x40, 0x00070000), (0x48, 1),
    (0x100, 1), (0x104, 3000 * 65536), (0x110, 1), (0x114, 3 * 65536), (0x118, 0xFFFF0000), (0x1414, 0x01000000) ]

/-- The plan of that example: stroke 7, PORT_A, STEP_MAJOR, REVERSED, 4 steps, slot 0, arm limit 100 ms, stall limit 400 µs. -/
def plan8 : Plan := planOf 0x40007 0x10004 0x01900064 0 0

/-- The tool armed with the plan. -/
def armed8 : State := { idle with
  recipe := { idle.recipe with shadow := tool8 }
  stroke := { idle.stroke with state := .armed, latched := plan8, armTimer := some 100000 }
  checker := { idle.checker with pins := idle.checker.pins.setIfInBounds 5 (PinContext.cleared .good) } }

/-- The tool acquiring, with k samples taken. -/
def acquiring8 (k : Nat) : State := { armed8 with
  stroke := { armed8.stroke with state := .acquiring, armTimer := none, stallTimer := some 400, samplesTaken := k }
  remap := { sequence := k, queue := [] } }

/-- A state of the closing walk: CLOSING, WALKING at a cell of slot 0, with this outcome. -/
def closing8 (c : Nat) (o : StrokeOutcome) : State := { armed8 with
  stroke := { armed8.stroke with state := .closing, armTimer := none, outcome := some o, samplesTaken := 32 }
  walker := { armed8.walker with state := .walking, cursorCell := c } }

/-- A refusal of stroke n with no detail. -/
def refusalOf (n : Nat) (why : RefusalReason) : RefusalRecord :=
  { strokeNumber := BitVec.ofNat 16 n, reason := why, detailKind := .none, detailIndex := 0 }

/-- A report entry not yet issued. -/
def entry (r : Record) : ReportEntry := { record := r, issued := false }

/-- A transaction outstanding. -/
def tx (k : TransactionKind) (r : Request) : Transaction := { kind := k, request := r, discard := false, advances := true }

/-- The part with this transaction outstanding. -/
def State.outstanding (s : State) (t : Transaction) : State := { s with arbiter := { s.arbiter with inflight := [t] } }

/-- The part with these records in its report queue. -/
def queued (s : State) (rs : List Record) : State := { s with writer := { s.writer with queue := rs.map entry } }

/-- Sixteen words, the first two given. -/
def line (a b : Nat) : LineData := #v[toAddr a, toAddr b, 0, 0, 0, 0, 0, 0, 0, 0, 0, 0, 0, 0, 0, 0]

/-- Port S with this state. -/
def withS (s : State) (x : PortStatus) : State := { s with portS := { s.portS with status := x } }

/-- Port A with this state. -/
def withA (s : State) (x : PortStatus) : State := { s with portA := { s.portA with status := x } }

/-- The part with these event flags set and enabled. -/
def withFlags (s : State) (f e : BitVec 9) : State := { s with lines := { s.lines with flags := f, enables := e } }

/-- The part with a pending plan. -/
def pendingPlan (s : State) (p : Plan) : State := { s with stroke := { s.stroke with pendingPlan := some p } }

/-- The part with a refusal owed behind the refusal entry. -/
def owing (s : State) : State := { queued s [.refusal (refusalOf 1 .halted)] with
  stroke := { s.stroke with owed := [refusalOf 2 .halted] } }

/-- The remap queue holds this many entries at a grid word. -/
def entries (s : State) (n : Nat) (issued : Bool) : State := { s with remap := { s.remap with
  queue := List.replicate n { addr := 0x50001000, data := 1, current := true, issued := issued } } }

/-- A ring of 16 with these indexes. -/
def ring (s : State) (p c : Nat) : State := { s with writer := { s.writer with producer := p, consumer := c } }

/-- Each port state in turn, at port S. -/
def portStates : List State :=
  [idle, withS idle (.waiting (.read 0 1) .hazard), withS idle (.outstanding (.read 0 1) true),
    withS idle (.abandoned (.read 0 1) false)]

/-- Each stroke state but LOADING. -/
def running : List StrokeState := [.idle, .arming, .armed, .acquiring, .closing, .reporting]

/-! ## WellFormed: an ill-formed term for each check, and a well-formed one for each row -/

theorem test_wf_malformed : (Instr.malformedRequest .a (.read 0x1000 1)).wellFormed = false ∧
    (Instr.malformedRequest .a (.read 0x1002 1)).wellFormed = true := by decide
theorem test_wf_align : (Instr.landingWrite .a (word 0x50000002 0)).wellFormed = false := by decide
theorem test_wf_no_beat : (Instr.landingWrite .a { addr := 0x50000000, beats := [] }).wellFormed = false := by decide
theorem test_wf_count : (Request.read 0 17).wellFormed = false ∧ (Request.read 0 16).wellFormed = true := by decide
theorem test_wf_line : (Request.read 0x3C 2).wellFormed = false ∧ (Request.read 0x3C 1).wellFormed = true := by decide
theorem test_wf_landing : (Instr.landingWrite .a (word 0x50000000 0)).wellFormed = true := by decide
theorem test_wf_pass : (Instr.passThroughRequest .s (.read 0x1001 1)).wellFormed = false ∧
    (Instr.passThroughRequest .s (.read 0x1000 1)).wellFormed = true := by decide
theorem test_wf_recipe : (Instr.recipeWrite (word 0x20002400 0)).wellFormed = false ∧
    (Instr.recipeWrite (word 0x200023FC 0)).wellFormed = true := by decide
theorem test_wf_plan : (Instr.planWrite (word 0x20002420 0)).wellFormed = false ∧
    (Instr.planWrite (word 0x2000241C 0)).wellFormed = true := by decide
theorem test_wf_arm : (Instr.arm (word 0x2000241C 2)).wellFormed = false ∧
    (Instr.arm (word 0x2000241C 1)).wellFormed = true := by decide
theorem test_wf_abort : (Instr.abort (word 0x20002420 2)).wellFormed = false ∧
    (Instr.abort (word 0x20002420 1)).wellFormed = true := by decide
theorem test_wf_halt_clear : (Instr.haltClear (word 0x20002420 1)).wellFormed = false ∧
    (Instr.haltClear (word 0x20002420 2)).wellFormed = true := by decide
theorem test_wf_force_on : (Instr.forceHaltOn (word 0x20002424 3)).wellFormed = false ∧
    (Instr.forceHaltOn (word 0x20002420 3)).wellFormed = true := by decide
theorem test_wf_force_off : (Instr.forceHaltOff (word 0x20002420 3)).wellFormed = false ∧
    (Instr.forceHaltOff (word 0x20002420 4)).wellFormed = true := by decide
theorem test_wf_force_release : (Instr.forceRelease (word 0x20002420 4)).wellFormed = false ∧
    (Instr.forceRelease (word 0x20002420 5)).wellFormed = true := by decide
theorem test_wf_release : (Instr.release { addr := 0x20002420, beats := [{ data := 6, enable := 7 }] }).wellFormed = false ∧
    (Instr.release (word 0x20002420 6)).wellFormed = true := by decide
theorem test_wf_unknown : (Instr.unknownCommand (word 0x20002420 6)).wellFormed = false ∧
    (Instr.unknownCommand (word 0x20002420 7)).wellFormed = true := by decide
theorem test_wf_acknowledge : (Instr.eventAcknowledge (word 0x20002428 1)).wellFormed = false ∧
    (Instr.eventAcknowledge (word 0x20002424 1)).wellFormed = true := by decide
theorem test_wf_enable : (Instr.eventEnable (word 0x20002424 1)).wellFormed = false ∧
    (Instr.eventEnable (word 0x20002428 1)).wellFormed = true := by decide
theorem test_wf_protection : (Instr.protectionWordWrite (word 0x20002430 1)).wellFormed = false ∧
    (Instr.protectionWordWrite (word 0x2000242C 1)).wellFormed = true := by decide
theorem test_wf_consumer : (Instr.ringConsumerIndexWrite (word 0x2000242C 1)).wellFormed = false ∧
    (Instr.ringConsumerIndexWrite (word 0x20002430 1)).wellFormed = true := by decide
theorem test_wf_region : (Instr.controlRegionWrite .a (word 0x20004000 1)).wellFormed = false ∧
    (Instr.controlRegionWrite .a (word 0x20003FFC 1)).wellFormed = true := by decide

/-- No row of the table gives bits, so no word spells a command. -/
theorem test_no_word : decodeTableWord 32 0xFFFFFFFF = none ∧ idle.withFetchWord 32 1 = idle := ⟨rfl, rfl⟩

/-! ## Worked examples of the spec -/

/-- Profile 9 of spec/02's worked example. -/
def profile9 : Memory := memOf
  [ (0x610, 3), (0x614, 3000 * 65536 + 300), (0x620, 0), (0x624, 3 * 65536 + 1), (0x628, 900 * 65536 + 200),
    (0x630, 65536 + 256 + 1), (0x634, 7 * 65536 + 4), (0x638, 1000 * 65536 + 600), (0x640, 2), (0x644, 11 * 65536 + 9),
    (0x648, 2800 * 65536 + 2000) ]

/-- The context and the grid tags (zone, band code, MARK, NEWFAULT) after these forces at steps from this one. -/
def judgeAll (x : PinContext) (st : Nat) : List Nat → PinContext × List (Nat × Nat × Bool × Bool)
  | [] => (x, [])
  | f :: fs =>
    let r := judge profile9 9 st (toAddr f) x
    let q := judgeAll r.1.ctx (st + 1) fs
    (q.1, (r.2.zone, r.2.band.code, r.2.mark, r.2.newFault) :: q.2)

/-- The context of cell 5 after its thirteen samples. -/
theorem test_example_pin_context :
    (judgeAll (PinContext.cleared .good) 0 [40, 120, 450, 950, 820, 560, 700, 590, 640, 1500, 2400, 2900, 2700]).1 =
      { health := .failed, progress := .after, zoneIndex := 4, tally := 0, zoneLatch := false, entryStep := some 2,
        seatStep := some 10, seated := true, peakForce := 2900, peakStep := some 11, previousForce := none,
        faults := 0x4, firstFault := some .highForce, firstFaultStep := some 3, samplesChecked := 13 } := by
  decide +kernel

/-- The tags of those samples. -/
theorem test_example_pin_tags :
    (judgeAll (PinContext.cleared .good) 0 [40, 120, 450, 950, 820, 560, 700, 590, 640, 1500, 2400, 2900, 2700]).2 =
      [ (0, 0, false, false), (1, 2, false, false), (1, 1, true, false), (1, 3, false, true), (2, 1, false, false),
        (2, 2, false, false), (2, 1, false, false), (2, 2, false, false), (0, 0, false, false), (3, 2, false, false),
        (3, 1, true, false), (3, 3, false, false), (0, 0, false, false) ] := by
  decide +kernel

/-- The overforce variant: 3100 counts at step 11, then the final check of a HALTED stroke. -/
theorem test_example_overforce :
    let x := (judgeAll (PinContext.cleared .good) 0 [40, 120, 450, 950, 820, 560, 700, 590, 640, 1500, 2400, 3100]).1
    x.faults = 0x24 ∧ x.firstFault = some .highForce ∧ x.peakForce = 3100 ∧ x.samplesChecked = 12 ∧ x.zoneIndex = 3 ∧
      finalFault profile9 9 .halted x = some .incomplete ∧ (x.addFault .incomplete 13).faults = 0x124 := by
  decide +kernel

/-- Spec/03's mapping: landing byte offset 48h goes to grid byte offset 58h; the corners; CELL_MAJOR NORMAL is the identity. -/
theorem test_example_mapping :
    toolOf plan8 8 18 = (5, 2) ∧ gridAddr tool8 4 5 2 = 0x50001058 ∧ toolOf plan8 8 0 = (7, 0) ∧ toolOf plan8 8 31 = (0, 3) ∧
      toolOf (planOf 0x20000 4 0 0 0) 8 18 = (4, 2) ∧ toolOf (planOf 0x60000 4 0 0 0) 8 3 = (7, 3) := by
  decide +kernel

/-- Spec/01: 37 cells and 3 steps give a footprint of 448 bytes. -/
theorem test_example_footprint : footprint 37 3 = 448 ∧ footprint 40 64 = 0x2800 ∧ footprint 8 3 = 128 := by decide

/-- Profile 5 of spec/01's worked example, HOLD before SEAT, and as corrected. -/
def profile5 (z3 z4 : Nat) : Memory := memOf
  [ (0x3D0, 4), (0x3E0, 0), (0x3E4, 5 * 65536), (0x3F0, 1), (0x3F4, 30 * 65536 + 6), (0x400, z3),
    (0x404, 50 * 65536 + 31), (0x410, z4), (0x414, 58 * 65536 + 51) ]

theorem test_example_profile : profileValid (profile5 3 2) 5 64 = false ∧ profileValid (profile5 2 3) 5 64 = true ∧
    profileValid (profile5 2 3) 5 58 = false := by
  decide +kernel

/-- Spec/07's two writes to one zone: the first is soft, the second hard, and the sums move by what the text gives. -/
theorem test_example_recipe_writes :
    let m := memOf [(0x230, 0x30000), (0x234, 0x90002), (0x238, 0x38400C8)]
    let bs := [fullBeat 0x50000, fullBeat 0x90002, fullBeat 0x38400FA, fullBeat 0]
    let m1 := applyBeats m 0x230 bs
    sumBeats 0 m 0x230 bs = 0x20032 ∧ (beatsFrom 0x230 bs).any (fun ob => hardDiffers m m1 ob.1) = false ∧
      sumBeats 0x20032 m1 0x234 [fullBeat 0xA0002] = 0x30032 ∧
      hardDiffers m1 (applyBeats m1 0x234 [fullBeat 0xA0002]) 0x234 = true := by
  decide +kernel

/-- Spec/10's consumer writes on a ring of 16 with producer 2 and consumer 13. -/
theorem test_example_consumer :
    let s : State := { idle with writer := { idle.writer with producer := 2, consumer := 13 } }
    s.occupancy = 5 ∧ s.inSpan 3 = false ∧ s.inSpan 2 = true ∧ s.inSpan 13 = true ∧ s.inSpan 12 = false ∧ s.ringFull = false := by
  decide +kernel

/-- The sum of a shadow's words in the canonical form stays its sum under a write of one byte. -/
theorem test_memory_form :
    (memOf [(4, 0x01020304), (0, 5)]) = [(0, 5), (4, 4), (5, 3), (6, 2), (7, 1)] ∧
      (memOf [(4, 0x01020304), (4, 0x00020004)]) = [(4, 4), (6, 2)] ∧ (memOf [(4, 7), (4, 0)]) = [] ∧
      Memory.wf tool8 = true := by
  decide +kernel

/-! ## One or two steps for each command -/

theorem test_power_on_reset :
    let t := after (.powerOnReset 3 2) (acquiring8 5)
    t.stroke.state = .loading ∧ t.regionBase = 0x60000000 ∧ t.clkSel = 2 ∧ t.recipe.shadow = [] ∧ t.remap.sequence = 0 ∧
      t.writerChoice = .loadRead ∧ t.arbiter.pointer = .report := by
  decide +kernel

theorem test_warm_reset :
    let s := { acquiring8 5 with lines := { idle.lines with haltLatch := true, flags := 0x3, enables := 1 } }
    let t := after .warmReset s
    t.stroke.state = .idle ∧ t.remap.sequence = 5 ∧ t.stroke.stallTimer = none ∧ t.haltLine = true ∧ t.lines.flags = 0 ∧
      t.lines.enables = 1 ∧ t.lines.resetN = true ∧ t.writer.dirty = true := by
  decide +kernel

theorem test_reset_n_deasserted :
    let s : State := { idle with
      lines := { idle.lines with resetN := true }
      portA := { idle.portA with heldOff := [.read 0x1000 1] } }
    let t := after (.resetNDeasserted .s) s
    t.lines.resetN = false ∧ t.portA.status = .outstanding (.read 0x1000 1) false ∧ t.portA.heldOff = [] := by
  decide +kernel

theorem test_press_abort :
    let t := after (.pressAbort true) (acquiring8 5)
    t.stroke.state = .closing ∧ t.stroke.outcome = some .pressStopped ∧ t.walker.state = .walking ∧ t.lines.pressAbort = true := by
  decide +kernel

theorem test_press_abort_held :
    (after (.pressAbort true) (after (.pressAbort true) idle)).stroke.state = .idle ∧
      (after (.pressAbort false) idle).lines.pressAbort = false := by
  decide +kernel

theorem test_malformed_request :
    (after (.malformedRequest .a (.read 0x1002 2)) idle).portA.answer = some (.readData [0, 0] false) ∧
      (after (.malformedRequest .s (.write (word 0x1001 5))) idle).portS.answer = some .error := by
  decide +kernel

/-- The first sample of a stroke: taken, judged in ACQUIRING, queued to its grid word. -/
theorem test_landing_write :
    let t := after (.landingWrite .a (word 0x50000000 0xAB000064)) armed8
    t.stroke.state = .acquiring ∧ t.remap.sequence = 1 ∧ t.stroke.samplesTaken = 1 ∧ t.stroke.stepsTaken = 1 ∧
      t.remap.queue = [{ addr := 0x50001070, data := 0x64, current := true, issued := false }] ∧
      t.portA.answer = some .done ∧ t.stroke.armTimer = none ∧ t.stroke.stallTimer = some 400 := by
  decide +kernel

/-- A halting beat with a beat behind it: HALTED, the second beat queued with the zero tag. -/
theorem test_landing_write_halting :
    let s := { acquiring8 18 with writer := { idle.writer with dirty := false } }
    let t := after (.landingWrite .a { addr := 0x50000048, beats := [fullBeat 3100, fullBeat 7] }) s
    t.stroke.state = .closing ∧ t.stroke.outcome = some .halted ∧ t.haltLine = true ∧ t.flagSet .halt = true ∧
      t.remap.queue.map RemapEntry.data = [0x91000C1C, 7] ∧ t.remap.sequence = 20 ∧ (t.pin 5).faults = 0x20 ∧
      t.slotFailing 0 = 1 ∧ t.rdyLine = false := by
  decide +kernel

/-- A halting beat at the last sample closes the stroke HALTED; the same beat below the limit closes it COMPLETE. -/
theorem test_landing_write_last_sample :
    let s : State := { acquiring8 31 with
      recipe := { idle.recipe with shadow := applyBeats tool8 0x1400 [fullBeat 0x01000000] }
      checker := { idle.checker with pins := idle.checker.pins.setIfInBounds 0 (PinContext.cleared .good) } }
    let halted := after (.landingWrite .a (word 0x5000007C 3100)) s
    let complete := after (.landingWrite .a (word 0x5000007C 3000)) s
    halted.stroke.outcome = some .halted ∧ halted.lines.haltLatch = true ∧ halted.flagSet .halt = true ∧
      complete.stroke.outcome = some .complete ∧ complete.lines.haltLatch = false ∧ complete.stroke.state = .closing := by
  decide +kernel

theorem test_waiting_landing_write_taken :
    let w := word 0x50000000 100
    let s := { armed8 with portA := { armed8.portA with status := .waiting (.write w) .room } }
    let full := { s with remap := { s.remap with queue := List.replicate 64 { addr := 0, data := 0, current := true, issued := true } } }
    (after (.waitingLandingWriteTaken .a) s).remap.sequence = 1 ∧ (after (.waitingLandingWriteTaken .a) full).remap.sequence = 0 := by
  decide +kernel

theorem test_pass_through_request :
    (after (.passThroughRequest .s (.read 0x1000 4)) idle).portS.status = .outstanding (.read 0x1000 4) false ∧
      (after (.passThroughRequest .s (.read 0x20000000 4)) (inState .loading)).portS.status =
        .waiting (.read 0x20000000 4) .loading := by
  decide +kernel

theorem test_hazard_wait_end :
    let s := { idle with remap := { idle.remap with queue := [{ addr := 0x1004, data := 9, current := true, issued := true }] } }
    let t := after (.passThroughRequest .s (.read 0x1000 4)) s
    t.portS.status = .waiting (.read 0x1000 4) .hazard ∧ (after (.hazardWaitEnd .s) t).portS.status = t.portS.status ∧
      (after (.hazardWaitEnd .s) { t with remap := idle.remap }).portS.status = .outstanding (.read 0x1000 4) false := by
  decide +kernel

theorem test_loading_wait_end :
    let w := Request.write (word 0x2000242C 3)
    let s := { idle with portS := { idle.portS with status := .waiting w .loading } }
    (after (.loadingWaitEnd .s) s).protection = 3 ∧ (after (.loadingWaitEnd .s) s).portS.status = .outstanding w false := by
  decide +kernel

theorem test_recipe_write_soft :
    let t := after (.recipeWrite (word 0x20000118 0xFFFF0010)) (acquiring8 5)
    t.stroke.state = .acquiring ∧ t.recipe.shadow.readWord 0x118 = 0xFFFF0010 ∧ t.recipe.sum = 0x10 := by
  decide +kernel

theorem test_recipe_write_hard :
    let t := after (.recipeWrite (word 0x20000000 9)) (acquiring8 5)
    t.stroke.state = .reporting ∧ t.stroke.outcome = some .recipeChanged ∧ t.writer.queue.length = 1 ∧ t.recipe.sum = 1 := by
  decide +kernel

theorem test_plan_write :
    let t := after (.planWrite { addr := 0x20002404, beats := [{ data := 0xAABBCCDD, enable := 0x6 }] }) idle
    t.recipe.staging[1] = 0x00BBCC00 ∧ t.stroke.state = .idle := by
  decide +kernel

theorem test_arm_idle :
    let t := after (.arm (word 0x2000241C 1)) { idle with recipe := { idle.recipe with staging := plan8 } }
    t.stroke.state = .arming ∧ t.stroke.latched = plan8 ∧ t.stroke.walk = .check 1 := by
  decide +kernel

theorem test_arm_superseded :
    let s : State := { acquiring8 5 with
      stroke := { (acquiring8 5).stroke with pendingPlan := some plan8 }
      recipe := { idle.recipe with staging := planOf 8 0 0 0 0 } }
    let t := after (.arm (word 0x2000241C 1)) s
    t.stroke.pendingPlan = some (planOf 8 0 0 0 0) ∧ t.refusals = [refusalOf 7 .superseded] := by
  decide +kernel

theorem test_arm_wait_end :
    let s := queued idle [.refusal (refusalOf 3 .halted)]
    let t := after (.arm (word 0x2000241C 1)) s
    t.portS.status = .waiting (.write (word 0x2000241C 1)) .refusalEntry ∧ t.stroke.state = .idle ∧
      (after .armWaitEnd { t with writer := idle.writer }).stroke.state = .arming := by
  decide +kernel

theorem test_abort_idle : (after (.abort (word 0x20002420 1)) idle).writer.cmdResult = .busy := by decide +kernel

theorem test_abort_arming :
    let s := { inState .arming with stroke := { idle.stroke with state := .arming, latched := plan8, pendingPlan := some (planOf 8 0 0 0 0) } }
    let t := after (.abort (word 0x20002420 1)) s
    t.stroke.state = .idle ∧ t.stroke.pendingPlan = none ∧ t.refusals = [refusalOf 7 .abandoned, refusalOf 8 .abandoned] ∧
      t.writer.cmdResult = .done := by
  decide +kernel

theorem test_halt_clear :
    let s := { idle with lines := { idle.lines with haltLatch := true } }
    (after (.haltClear (word 0x20002420 2)) s).haltLine = false ∧
      (after (.haltClear (word 0x20002420 2)) { inState .closing with lines := s.lines }).haltLine = true := by
  decide +kernel

theorem test_force_halt_on : (after (.forceHaltOn (word 0x20002420 3)) idle).haltLine = true := by decide +kernel

theorem test_force_halt_off :
    (after (.forceHaltOff (word 0x20002420 4)) idle).lines.force = .forcedOff ∧
      (after (.forceHaltOff (word 0x20002420 4)) { idle with protection := 8 }).writer.cmdResult = .prot := by
  decide +kernel

theorem test_force_release :
    (after (.forceRelease (word 0x20002420 5)) { idle with lines := { idle.lines with force := .forcedOn } }).haltLine = false := by
  decide +kernel

/-- RELEASE with both freeze flags and ENFORCE set; and spec/08's burst that carries RELEASE and a freeze request. -/
theorem test_release :
    (after (.release (word 0x20002420 6)) { idle with protection := 0xB }).protection = 8 ∧
      (after (.release (word 0x20002420 6)) { idle with protection := 7 }).writer.cmdResult = .prot ∧
      (after (.release { addr := 0x20002420, beats := [fullBeat 6, fullBeat 0, fullBeat 0, fullBeat 3] })
        { idle with protection := 3 }).protection = 3 := by
  decide +kernel

theorem test_unknown_command :
    let t := after (.unknownCommand { addr := 0x20002420, beats := [{ data := 0x01020301, enable := 0x5 }] }) idle
    t.writer.cmdCode = 0x00020001 ∧ t.writer.cmdResult = .unknown ∧ t.stroke.state = .idle := by
  decide +kernel

theorem test_event_acknowledge :
    let s := { idle with lines := { idle.lines with flags := 0x1FF, enables := 0x101 } }
    let t := after (.eventAcknowledge { addr := 0x20002424, beats := [{ data := 0x1FF, enable := 1 }] }) s
    t.lines.flags = 0x100 ∧ t.irqLine = true ∧ t.writer.dirty = true := by
  decide +kernel

theorem test_event_enable :
    (after (.eventEnable { addr := 0x20002428, beats := [{ data := 0x103, enable := 2 }] }) idle).lines.enables = 0x100 := by
  decide +kernel

theorem test_protection_word_write :
    let s := { idle with lines := { idle.lines with force := .forcedOff, haltLatch := true } }
    let t := after (.protectionWordWrite (word 0x2000242C 9)) s
    t.protection = 9 ∧ t.lines.force = .none ∧ t.haltLine = true ∧
      (after (.protectionWordWrite (word 0x2000242C 3)) { idle with protection := 8 }).portS.answer = some .dropped := by
  decide +kernel

theorem test_ring_consumer_index_write :
    let s := { idle with writer := { idle.writer with producer := 2, consumer := 13 } }
    (after (.ringConsumerIndexWrite (word 0x20002430 2)) s).writer.consumer = 2 ∧
      (after (.ringConsumerIndexWrite (word 0x20002430 3)) s).flagSet .index = true := by
  decide +kernel

theorem test_control_region_write :
    let t := after (.controlRegionWrite .a (word 0x20003000 1)) idle
    t.portA.answer = some .dropped ∧ t.flagSet .protect = true ∧ t.lines.firstRefused = 0x20003000 ∧
      (after (.controlRegionWrite .s (word 0x20003000 1)) idle).portS.status = .outstanding (.write (word 0x20003000 1)) false := by
  decide +kernel

/-- Check 1 passes; the profile of a used pin fails. -/
theorem test_arming_check :
    let s := { armed8 with stroke := { armed8.stroke with state := .arming, armTimer := none, walk := .check 1 } }
    let t := { s with stroke := { s.stroke with walk := .pin 5, latched := planOf 7 0x10003 0x01900064 0 0 } }
    (after .armingCheck s).stroke.walk = .check 2 ∧ (after .armingCheck t).stroke.state = .idle ∧
      (after .armingCheck t).refusals =
        [{ strokeNumber := 7, reason := .parameter, detailKind := .profile, detailIndex := 0 }] := by
  decide +kernel

/-- Two used pins name one profile, found valid at cell 5: with nothing between, the test at cell 6 passes; with a soft write that raises
the floor over the ceiling between the two tests, it refuses (log 25). -/
theorem test_profile_tested_at_each_pin :
    let s : State := { armed8 with
      recipe := { idle.recipe with shadow := applyBeats tool8 0x1418 [fullBeat 0x01000000] }
      stroke := { armed8.stroke with state := .arming, armTimer := none, walk := .pin 5 } }
    let t := after .armingCheck s
    let u := after (.recipeWrite (word 0x20000118 0x0000FFFF)) t
    t.stroke.walk = .pin 6 ∧ (after .armingCheck t).stroke.walk = .finished ∧ u.stroke.walk = .pin 6 ∧
      (after .armingCheck u).stroke.state = .idle ∧
      (after .armingCheck u).refusals =
        [{ strokeNumber := 7, reason := .parameter, detailKind := .profile, detailIndex := 0 }] := by
  decide +kernel

/-- The walk from check 16 through slot 0 and cell 5 to its end. -/
theorem test_arming_walk_positions :
    (WalkPosition.check 16).after tool8 plan8 = .slot 0 ∧ (WalkPosition.slot 0).after tool8 plan8 = .pin 5 ∧
      (WalkPosition.pin 5).after tool8 plan8 = .finished := by
  decide +kernel

theorem test_arming_walk_end_refused :
    let s := { armed8 with
      stroke := { armed8.stroke with state := .arming, armTimer := none, walk := .finished }
      lines := { idle.lines with haltLatch := true } }
    (after .armingWalkEnd s).stroke.state = .idle ∧ (after .armingWalkEnd s).refusals = [refusalOf 7 .halted] := by
  decide +kernel

theorem test_arming_walk_end :
    let s := { armed8 with stroke := { armed8.stroke with state := .arming, armTimer := none, walk := .finished } }
    let t := after .armingWalkEnd s
    t.stroke.state = .armed ∧ t.stroke.armTimer = some 100000 ∧ (t.pin 5).health = .good ∧ (t.pin 4).health = .unused ∧
      t.rdyLine = true := by
  decide +kernel

theorem test_arm_expiry :
    let t := after .armExpiry armed8
    t.stroke.state = .reporting ∧ t.stroke.outcome = some .expired ∧ t.writer.queue.length = 2 ∧ t.walker.state = .stopped := by
  decide +kernel

theorem test_stall_expiry :
    let w := word 0x50000014 100
    let s := { acquiring8 5 with portA := { idle.portA with status := .waiting (.write w) .room } }
    let t := after .stallExpiry s
    t.stroke.state = .closing ∧ t.stroke.outcome = some .stalled ∧ t.portA.answer = some .dropped ∧
      t.lines.firstRefused = 0x50000014 ∧ t.flagSet .stray = true := by
  decide +kernel

/-- The used pin of a STALLED stroke receives INCOMPLETE and its PIN_RECORD is queued. -/
theorem test_closing_walk_step_pin :
    let t := after .closingWalkStep (closing8 0 .stalled)
    (t.pin 5).faults = 0x100 ∧ (t.pin 5).firstFaultStep = some 4 ∧ t.slotFailing 0 = 1 ∧ t.writer.queue.length = 1 ∧
      t.walker.cursorCell = 6 ∧ t.walker.state = .walking := by
  decide +kernel

/-- After the last pin of the last slot: its SLOT_VERDICT, then the STROKE_VERDICT. -/
theorem test_closing_walk_step_slot :
    let t := after .closingWalkStep (closing8 6 .complete)
    t.stroke.state = .reporting ∧ t.walker.state = .stopped ∧ t.writer.queue.length = 2 ∧ t.walker.rejectMask = 0 := by
  decide +kernel

/-- Rotation after the report writer: port A first; the high-water rule before it. -/
theorem test_memory_grant :
    let s := { idle with
      portA := { idle.portA with status := .outstanding (.read 0x1000 1) false }
      remap := { idle.remap with queue := List.replicate 47 { addr := 4, data := 5, current := true, issued := false } } }
    let s48 := { s with remap := { s.remap with queue := List.replicate 48 { addr := 4, data := 5, current := true, issued := false } } }
    (after .memoryGrant s).arbiter.pointer = .portA ∧ (after .memoryGrant s48).arbiter.pointer = .remap ∧
      (after .memoryGrant s48).arbiter.inflight = [tx .remapBeat (wordWrite 4 [5])] := by
  decide +kernel

/-- A granted record write and the words of its REFUSAL. -/
theorem test_memory_grant_record :
    let s := { queued armed8 [.refusal (refusalOf 78 .superseded)] with arbiter := { pointer := .remap, inflight := [] } }
    (after .memoryGrant s).arbiter.inflight =
      [tx .record (wordWrite 0x50010000 [0x004E0004, 0x8, 0, 0, 0, 0, 0, 0])] := by
  decide +kernel

/-- A ring at 2000_0000h meets the control region: the record counts as written in error. -/
theorem test_record_to_control_region :
    let s := queued { idle with recipe := { idle.recipe with shadow := memOf [(0xC, 0x20000000), (0x10, 16)] } }
      [.refusal (refusalOf 3 .parameter)]
    let t := after (.recordToControlRegion true) s
    t.writer.queue = [] ∧ t.writer.producer = 1 ∧ t.flagSet .memerr = true ∧ t.flagSet .refusal = true ∧
      t.writer.memErrAddr = 0x20000000 ∧ t.arbiter.inflight = [] := by
  decide +kernel

theorem test_pass_through_answer :
    let s := State.outstanding { idle with portS := { idle.portS with status := .outstanding (.read 0x1000 2) true } }
      (tx (.passThrough .s) (.read 0x1000 2))
    (after (.passThroughAnswer true (line 5 6)) s).portS.answer = some (.readData [5, 6] true) ∧
      (after (.passThroughAnswer false (line 5 6)) s).portS.answer = some (.readData [0, 0] false) := by
  decide +kernel

theorem test_grid_write_answer :
    let e : RemapEntry := { addr := 0x50001058, data := 1, current := true, issued := true }
    let s := State.outstanding { acquiring8 5 with remap := { sequence := 5, queue := [e] } } (tx .remapBeat (wordWrite e.addr [1]))
    (after (.gridWriteAnswer true) s).remap.queue = [] ∧ (after (.gridWriteAnswer false) s).stroke.gridWriteError = true ∧
      (after (.gridWriteAnswer false) s).writer.memErrAddr = 0x50001058 := by
  decide +kernel

/-- The entry that a plain request waits on leaves the queue, and so does one of the 64 that a landing write finds: the request is
classified again, and the landing write is taken, in that event. -/
theorem test_grid_write_answer_ends_waits :
    let w := wordWrite 0x50001000 [1]
    let hz := State.outstanding (withS (entries idle 1 true) (.waiting (.read 0x50001000 1) .hazard)) (tx .remapBeat w)
    let more := State.outstanding (withS (entries idle 2 true) (.waiting (.read 0x50001000 1) .hazard)) (tx .remapBeat w)
    let rm := State.outstanding (withA (entries armed8 64 true) (.waiting (.write (word 0x50000000 5)) .room)) (tx .remapBeat w)
    (after (.gridWriteAnswer true) hz).portS.status = .outstanding (.read 0x50001000 1) false ∧
      (after (.gridWriteAnswer true) more).portS.status = .waiting (.read 0x50001000 1) .hazard ∧
      (after (.gridWriteAnswer true) rm).portA.answer = some .done ∧ (after (.gridWriteAnswer true) rm).remap.sequence = 1 ∧
      (after (.gridWriteAnswer true) rm).remap.queue.length = 64 := by
  decide +kernel

/-- Spec/10's event 5: the record at index 15 of a ring of 16 completes, and the lap bit flips. -/
theorem test_record_write_complete :
    let s0 := queued armed8 [.refusal (refusalOf 78 .superseded)]
    let s := State.outstanding { s0 with writer := { s0.writer with producer := 15, consumer := 13, lap := true } }
      (tx .record (wordWrite 0x500101E0 []))
    let t := after (.recordWriteComplete true true) s
    t.writer.producer = 0 ∧ t.writer.lap = false ∧ t.flagSet .refusal = true ∧ t.writer.queue = [] := by
  decide +kernel

/-- Spec/04's plan queued behind the stroke: VERDICT enabled and raised after ARMING has begun abandons the arming. -/
theorem test_record_write_complete_verdict :
    let s0 := queued { acquiring8 5 with stroke := { (acquiring8 5).stroke with state := .reporting, pendingPlan := some (planOf 66 0 0 0 0) } }
      [.stroke (idle.composeStroke .stalled)]
    let s := State.outstanding { s0 with lines := { s0.lines with enables := 1 } } (tx .record (wordWrite 0x50010000 []))
    (after (.recordWriteComplete true false) s).refusals = [refusalOf 66 .abandoned] ∧
      (after (.recordWriteComplete true false) s).stroke.state = .idle ∧
      (after (.recordWriteComplete true true) s).stroke.state = .arming := by
  decide +kernel

/-- The completion of a REFUSAL takes the go word that waits for its entry. In ARMING with REFUSAL enabled, either order: the flag first
abandons the arming, whose REFUSAL fills the entry again; the go word first is the plan that the abandonment starts. -/
theorem test_record_write_complete_takes_arming :
    let go := wordWrite 0x2000241C [1]
    let s (st : StrokeState) : State := State.outstanding
      (withS (withFlags (queued (inState st) [.refusal (refusalOf 3 .halted)]) 0 2) (.waiting go .refusalEntry))
      (tx .record (wordWrite 0 []))
    let first := after (.recordWriteComplete true true) (s .arming)
    let last := after (.recordWriteComplete true false) (s .arming)
    (after (.recordWriteComplete true true) (s .armed)).stroke.pendingPlan = some (planOf 0 0 0 0 0) ∧
      first.stroke.state = .idle ∧ first.refusals = [refusalOf 0 .abandoned] ∧ first.portS.status = .waiting go .refusalEntry ∧
      last.stroke.state = .arming ∧ last.refusals = [refusalOf 0 .abandoned] ∧ last.portS.status = .outstanding go false ∧
      last.stroke.latched = planOf 0 0 0 0 0 := by
  decide +kernel

theorem test_status_write_complete :
    let s := State.outstanding idle (tx .status (wordWrite 0x20002480 []))
    (after (.statusWriteComplete true) s).arbiter.inflight = [] ∧
      (after (.statusWriteComplete false) s).writer.memErrAddr = 0x20002480 ∧
      (after (.statusWriteComplete false) s).flagSet .memerr = true := by
  decide +kernel

/-- A line of the load is stored; an ERROR stores 0 with MEMERR. -/
theorem test_load_read_answer :
    let s := State.outstanding { State.reset with writer := { State.reset.writer with loadIssued := 1 } }
      (tx (.loadRead 0) (.read 0 16))
    (after (.loadReadAnswer true (line 8 5)) s).recipe.sum = 13 ∧
      (after (.loadReadAnswer true (line 8 5)) s).recipe.shadow.readWord 4 = 5 ∧
      (after (.loadReadAnswer false (line 8 5)) s).recipe.shadow = [] ∧
      (after (.loadReadAnswer false (line 8 5)) s).flagSet .memerr = true := by
  decide +kernel

/-- The 145th answer fills the staging copy and ends LOADING. -/
theorem test_load_end :
    let s := State.outstanding { State.reset with writer := { State.reset.writer with loadIssued := 145, loadAnswered := 144 } }
      (tx (.loadRead 144) (.read 0x2400 16))
    let t := after (.loadReadAnswer true (line 7 9)) s
    t.stroke.state = .idle ∧ t.recipe.staging[0] = 7 ∧ t.flagSet .loaded = true ∧ t.writer.dirty = true ∧ t.recipe.sum = 0 := by
  decide +kernel

/-- An empty queue lets one bus clock period pass; the hundredth makes a timebase period of a 100 MHz part. -/
theorem test_idle_step :
    idle.idleStep.prescaler = 1 ∧ { armed8 with prescaler := 99 }.idleStep.prescaler = 0 ∧
      { armed8 with prescaler := 99 }.idleStep.stroke.armTimer = some 99999 := by
  decide +kernel

/-! ## Witnesses: a state and operands that meet the hypotheses of each statement, clause by clause -/

theorem test_witness_StepRunsTheFrontCommand :
    { idle with pending := [Instr.memoryGrant, .armWaitEnd] }.pending = Instr.memoryGrant :: [.armWaitEnd] := rfl

theorem test_witness_IdleStepCountsTheTimebase :
    let s (n : Nat) (a b : Option Nat) (st : StrokeState) : State :=
      { idle with prescaler := n, stroke := { idle.stroke with state := st, armTimer := a, stallTimer := b } }
    let quiet (s : State) : Bool := s.pending.isEmpty && !s.takesHeld .a && !s.takesHeld .s
    ([s 0 none none .idle, s 98 none none .idle].all fun x =>
      quiet x && decide (x.prescaler + 1 < Config.divisor x.clkSel)) = true ∧
    ([s 99 none none .idle, s 99 (some 2) none .armed, s 99 none (some 2) .acquiring, s 99 (some 1) none .armed,
      s 99 none (some 1) .acquiring].all fun x => quiet x && decide (Config.divisor x.clkSel ≤ x.prescaler + 1)) = true := by
  decide +kernel

theorem test_witness_WarmReset : (portStates.all fun s => !s.lines.resetN) = true ∧
    portStates.map (fun s => (s.port .s).status) =
      [.free, .waiting (.read 0 1) .hazard, .outstanding (.read 0 1) true, .abandoned (.read 0 1) false] := by
  decide +kernel

/-- No request held off, or an abandoned port; a request held off at either port, with another behind it; requests at both ports. -/
theorem test_witness_ResetLineChanges :
    let s : State := { idle with lines := { idle.lines with resetN := true } }
    let held (p : PortId) (t : State) : State := t.setPort p { t.port p with heldOff := [.read 0 1, .read 4 1] }
    let left : State := held .a (withA s (.abandoned (.read 0 1) false))
    s.lines.resetN = true ∧ idle.lines.resetN = false ∧ s.portA.heldOff = [] ∧ s.portS.heldOff = [] ∧
      (left.port .a).status = .abandoned (.read 0 1) false ∧ (left.port .a).heldOff ≠ [] ∧
      ([PortId.a, .s].all fun p => decide ((held p s).lines.resetN = true ∧ ((held p s).port p).status = .free ∧
        ((held p s).port p).heldOff = [.read 0 1, .read 4 1] ∧ ((held p s).port (PortId.other p)).heldOff = [])) = true ∧
      ([PortId.a, .s].all fun p => decide (((held .a (held .s s)).port p).status = .free ∧
        ((held .a (held .s s)).port p).heldOff = [.read 0 1, .read 4 1])) = true := by
  decide +kernel

theorem test_witness_HaltLine :
    (∃ t, exec .memoryGrant idle = .next t ∧ t.lines.haltLatch = idle.lines.haltLatch ∧ t.lines.force = idle.lines.force) ∧
    (∃ t, exec (.powerOnReset 0 0) idle = .next t) ∧ ∃ t, exec .warmReset idle = .next t :=
  ⟨⟨_, rfl, by decide +kernel⟩, ⟨_, rfl⟩, ⟨_, rfl⟩⟩

theorem test_witness_PressAbortByState :
    ([inState .idle, inState .closing, inState .reporting, inState .loading, armed8, acquiring8 5].all fun s =>
      !s.lines.pressAbort) = true ∧
    (after (.pressAbort true) idle).lines.pressAbort = true ∧
    ([inState .arming, owing (inState .arming), pendingPlan (owing (inState .arming)) plan8].all fun s =>
      !s.lines.pressAbort && decide (s.stroke.state = .arming ∧ s.owedOk)) = true ∧
    armed8.stroke.samplesTaken = 0 ∧ 0 < (acquiring8 5).stroke.samplesTaken ∧ Plan.active plan8 0 = true ∧
    (withA (acquiring8 5) (.waiting (.write (word 0x50000014 1)) .room)).lines.pressAbort = false := by
  decide +kernel

theorem test_witness_RequestRowsAndBusyPorts :
    requestOf (.release (word 0x20002420 6)) = some (.s, .write (word 0x20002420 6)) ∧
      ((withS idle (.outstanding (.read 0 1) true)).port .s).status ≠ .free ∧
      { idle with lines := { idle.lines with resetN := true } }.lines.resetN = true := by
  decide +kernel

theorem test_witness_MalformedRequest :
    idle.portOpen .a ∧ idle.portOpen .s ∧ (Request.read 0 0).wellFormed = false ∧ (Request.read 0 17).wellFormed = false ∧
      (Request.read 0x3C 2).wellFormed = false ∧ (Request.read 2 1).wellFormed = false ∧
      (Request.write { addr := 0, beats := [] }).wellFormed = false := by
  decide +kernel

theorem test_witness_RequestsForwarded :
    idle.portOpen .a ∧ (Request.read 0x1FFFFFFC 1).wellFormed = true ∧ idle.inRegion 0x1FFFFFFC = false ∧
      idle.inRegion 0x20004000 = false ∧ idle.inRegion 0x20000000 = true ∧ idle.inRegion 0x20003FFC = true ∧
      idle.stroke.state ≠ .loading ∧ (∀ w, Request.read 0x1FFFFFFC 1 = .write w → idle.inLanding w.addr.toNat = false) ∧
      (∀ j < 1, ∀ e ∈ (entries idle 3 true).remap.queue, e.addr ≠ toAddr (0x1FFFFFFC + 4 * j)) :=
  ⟨by decide +kernel, by decide +kernel, by decide +kernel, by decide +kernel, by decide +kernel, by decide +kernel,
    by decide +kernel, nofun, by decide +kernel⟩

theorem test_witness_RequestsHeld :
    let s := entries idle 1 true
    s.portOpen .s ∧ (Request.read 0x50000FFC 1).wellFormed = true ∧ s.inRegion 0x50001000 = false ∧
      (∃ j < 2, ∃ e ∈ s.remap.queue, e.addr = toAddr (0x50000FFC + 4 * j)) ∧
      (inState .loading).portOpen .a ∧ (inState .loading).inRegion 0x20000000 = true := by
  decide +kernel

theorem test_witness_WaitEnds :
    let w := word 0x50000000 5
    let hz := withS (entries idle 1 true) (.waiting (.read 0x50001000 1) .hazard)
    let ld := withS idle (.waiting (.read 0x20000000 1) .loading)
    let rm := withA (entries armed8 64 true) (.waiting (.write w) .room)
    let rf := withS (owing idle) (.waiting (.write (word 0x2000241C 1)) .refusalEntry)
    (hz.port .s).status = .waiting (.read 0x50001000 1) .hazard ∧ (ld.port .s).status = .waiting (.read 0x20000000 1) .loading ∧
      (rm.port .a).status = .waiting (.write w) .room ∧ 64 < rm.remap.queue.length + 1 ∧ rf.stroke.owed ≠ [] ∧
      ([hz, ld, rm, rf].all fun s => s.portA.heldOff.isEmpty && s.portS.heldOff.isEmpty && !s.lines.resetN) = true ∧
      ld.inRegion 0x20000000 = true ∧ ld.stroke.state ≠ .loading ∧
      (∀ j < 1, ∀ e ∈ idle.remap.queue, e.addr ≠ toAddr (0x50001000 + 4 * j)) := by
  decide +kernel

/-- Port S serves in every stroke state but LOADING: the commands, the event words, the protection word, the consumer index, plan
writes and go words. -/
theorem test_witness_serves : (running.all fun st => decide ((inState st).serves)) = true := by decide +kernel

theorem test_witness_force_and_release :
    idle.enforce = false ∧ { idle with protection := 8 }.enforce = true ∧ { idle with protection := 4 }.freezeProtection = true ∧
      (ring idle 1 0).writer.consumer ≠ (ring idle 1 0).writer.producer ∧
      (queued idle [.refusal (refusalOf 1 .halted)]).writer.queue ≠ [] ∧ (owing idle).stroke.owed ≠ [] ∧
      idle.freezeProtection = false ∧ idle.writer.queue = [] ∧ idle.stroke.owed = [] := by
  decide +kernel

theorem test_witness_UnknownCommand :
    (0x7#4) ≠ 0xF#4 ∧ (0#32).toNat = 0 ∧ 6 < (7#32).toNat ∧ idle.serves := by decide +kernel

theorem test_witness_AbortByState :
    let pin := Record.pin (idle.composePin 0 5)
    let full : State := ring (queued (inState .reporting) [pin, .stroke (idle.composeStroke .stalled)]) 15 0
    (running.all fun st => decide ((inState st).serves ∧ (inState st).owedOk)) = true ∧
    (owing (inState .arming)).owedOk ∧ (pendingPlan (inState .arming) plan8).stroke.pendingPlan = some plan8 ∧
      (inState .reporting).serves ∧ (inState .reporting).stroke.pendingPlan = none ∧
      full.serves ∧ full.ringFull = true ∧ full.writerBusy = false ∧ pin.isPin = true ∧
      ([armed8, acquiring8 5, closing8 5 .complete].all fun s => decide (s.serves ∧ s.stroke.pendingPlan = none)) = true ∧
      armed8.stroke.samplesTaken = 0 ∧ 0 < (acquiring8 5).stroke.samplesTaken ∧ Plan.active plan8 0 = true ∧
      (withA (acquiring8 5) (.waiting (.write (word 0x50000014 1)) .room)).serves ∧
      (acquiring8 5).flagSet .protect = false ∧ (acquiring8 5).flagSet .stray = false ∧
      (full.writer.queue.filter fun e => !(e.record.isPin && !e.issued)) ≠ [] := by
  decide +kernel

theorem test_witness_ProtectionWord :
    let s : State := { idle with protection := 8 }
    s.serves ∧ (fullBeat 3).enable.getLsbD 0 = true ∧ s.protection &&& ~~~(3#4) ≠ 0#4 ∧
      ¬ (s.protection &&& ~~~(9#4) ≠ 0#4) ∧ (0xE#4).getLsbD 0 = false := by
  decide +kernel

/-- Values inside and outside the span, at its ends; byte enables that take the lower byte, the upper bits, or neither from the current
consumer 13; a word above bit 11; the same in ARMING with INDEX enabled. -/
theorem test_witness_ConsumerIndex :
    let s := ring idle 2 13
    let armIt : State := withFlags (ring (owing (inState .arming)) 2 13) 0 0x40
    let asks (d : Word) (en : BitVec 4) (v : Nat) : Bool := (List.range 12).all fun i =>
      v.testBit i == if en.getLsbD (i / 8) then d.getLsbD i else Nat.testBit 13 i
    s.serves ∧ s.ringCapacity = 16 ∧
      ([13, 15, 0, 2].all fun v => decide (v < 16 ∧ (v + 16 - 13) % 16 ≤ (2 + 16 - 13) % 16)) = true ∧
      ([3, 12, 16, 4095].all fun v => !decide (v < 16 ∧ (v + 16 - 13) % 16 ≤ (2 + 16 - 13) % 16)) = true ∧
      asks 0xFFFFF002 0xF 2 = true ∧ asks 0x302 0x2 0x30D = true ∧ asks 0x302 0x1 2 = true ∧ asks 0x302 0xC 13 = true ∧
      armIt.serves ∧ armIt.stroke.state = .arming ∧ armIt.flagSet .index = false ∧ armIt.lines.enables.getLsbD 6 = true ∧
      armIt.owedOk := by
  decide +kernel

theorem test_witness_PlanWrite :
    ¬ ((0 : Fin 8) = 7 ∧ (0xF#4) = 0xF#4 ∧ (1#32) = 1#32) ∧ ¬ ((7 : Fin 8) = 7 ∧ (0xF#4) = 0xF#4 ∧ (2#32) = 1#32) ∧
      ¬ ((7 : Fin 8) = 7 ∧ (0x7#4) = 0xF#4 ∧ (1#32) = 1#32) ∧ idle.serves := by
  decide +kernel

/-- Each stroke state; a pending plan outside ARMING and in it, the SUPERSEDED record meeting a full ring with RING_WAIT enabled or not. -/
theorem test_witness_Arm :
    let armIt := pendingPlan (inState .arming) plan8
    let full := ring armIt 15 0
    (running.all fun st => decide ((inState st).serves ∧ (inState st).refusalOccupied = false ∧ (inState st).owedOk)) = true ∧
    (pendingPlan (inState .closing) plan8).stroke.pendingPlan = some plan8 ∧ plan8[7] = 1#32 ∧
    ([armIt, full, withFlags full 0 0x20, withFlags full 0x20 0x20].all fun s => decide (s.serves ∧ s.refusalOccupied = false ∧
      s.owedOk ∧ s.stroke.state = .arming ∧ s.stroke.pendingPlan = some plan8 ∧ s.writer.queue = [] ∧ s.writerBusy = false)) = true ∧
    armIt.ringFull = false ∧ full.ringFull = true ∧ full.flagSet .ringWait = false ∧ full.lines.enables.getLsbD 5 = false ∧
    (withFlags full 0 0x20).lines.enables.getLsbD 5 = true ∧ (withFlags full 0x20 0x20).flagSet .ringWait = true ∧
    (queued idle [.refusal (refusalOf 1 .halted)]).refusalOccupied = true ∧
    (withS idle (.waiting (.write (idle.oneBeat 0x241C (fullBeat 1))) .refusalEntry)).portS.status =
      .waiting (.write (idle.oneBeat 0x241C (fullBeat 1))) .refusalEntry := by
  decide +kernel

/-- A REFUSAL at the head, written, with a go word that waits for its entry: in IDLE, with and without another refusal owed, and in ARMING
with REFUSAL enabled. -/
theorem test_witness_ArmWaits :
    let w := Request.write (idle.oneBeat 0x241C (fullBeat 1))
    let s (st : StrokeState) : State := State.outstanding
      (withS (queued (inState st) [.refusal (refusalOf 1 .halted)]) (.waiting w .refusalEntry)) (tx .record (wordWrite 0 []))
    let owed : State := { s .idle with stroke := { idle.stroke with owed := [refusalOf 2 .halted] } }
    let raised : State := withFlags (s .arming) 0 2
    ([s .idle, owed, raised].all fun x => decide (x.portS.status = .waiting w .refusalEntry ∧ x.walker.state ≠ .paused ∧
      (x.writer.queue.tail.filter fun y => y.record.isRefusal) = [] ∧ x.writer.queue.length = 1)) = true ∧
      (s .idle).lines.enables = 0#9 ∧ (s .idle).stroke.owed = [] ∧ owed.stroke.owed = [refusalOf 2 .halted] ∧
      raised.stroke.state = .arming ∧ raised.stroke.pendingPlan = none ∧ raised.flagSet .refusal = false ∧
      raised.lines.enables.getLsbD 1 = true := by
  decide +kernel

/-- Each cause of the drop decision at both ends of its range; in ARMING, with PROTECT enabled. -/
theorem test_witness_DroppedControlWrite :
    let drops (s : State) (p : PortId) (a : Nat) : Bool :=
      decide (s.portOpen p ∧ s.stroke.state ≠ .loading) && (Request.write (word a 0)).wellFormed &&
        s.inRegion (word a 0).addr.toNat && s.dropDecision p (a - 0x20000000) (word a 0).beats
    let armIt : State := withFlags (owing (inState .arming)) 0 8
    drops idle .a 0x20000000 = true ∧ drops idle .a 0x20003FFC = true ∧
      ([0x20002480, 0x200024BC].all fun a => drops idle .s a) = true ∧
      ([0x20000000, 0x200000FC, 0x20001400, 0x200023FC].all fun a => drops { idle with protection := 2 } .s a) = true ∧
      ([0x20000100, 0x200013FC].all fun a => drops { idle with protection := 1 } .s a) = true ∧
      drops { idle with protection := 8 } .s 0x2000242C = true ∧
      drops armIt .a 0x20000000 = true ∧ drops armIt .s 0x20002480 = true ∧ armIt.stroke.state = .arming ∧
      armIt.flagSet .protect = false ∧ armIt.lines.enables.getLsbD 3 = true ∧ armIt.owedOk := by
  decide +kernel

/-- Writes from port S that nothing drops: each area with the other flag set, both ends; with a go word, and the refusal entry free and
occupied. -/
theorem test_witness_NotDropped :
    let passes (s : State) (a : Nat) : Bool := decide (s.portOpen .s ∧ s.stroke.state ≠ .loading) &&
      (Request.write (word a 1)).wellFormed && s.inRegion (word a 1).addr.toNat &&
        !s.dropDecision .s (a - 0x20000000) (word a 1).beats
    let envelopes : State := { idle with protection := 1 }
    let map : State := { idle with protection := 2 }
    ([0x20000000, 0x200000FC, 0x20001400, 0x200023FC].all fun a => passes envelopes a &&
        decide (envelopes.thawedAt (a - 0x20000000))) = true ∧
      ([0x20000100, 0x200013FC].all fun a => passes map a && decide (map.thawedAt (a - 0x20000000))) = true ∧
      ([0x2000247C, 0x200024C0, 0x20002420, 0x20002430].all (passes map)) = true ∧ passes idle 0x2000241C = true ∧
      idle.refusalOccupied = false ∧ passes (queued idle [.refusal (refusalOf 1 .halted)]) 0x2000241C = true ∧
      (queued idle [.refusal (refusalOf 1 .halted)]).refusalOccupied = true := by
  decide +kernel

/-- Writes that are taken, at both ends of the plain ranges. -/
theorem test_witness_TakenControlWrite :
    ([0x20000000, 0x200023FC, 0x20002400, 0x2000241C, 0x20002430, 0x20002434, 0x2000247C, 0x200024C0, 0x20003FFC].all fun a =>
      (Request.write (word a 0)).wellFormed && idle.inRegion (word a 0).addr.toNat &&
        !idle.dropDecision .s (a - 0x20000000) (word a 0).beats) = true ∧
    idle.serves ∧ idle.refusalOccupied = false ∧ idle.recipe.shadow.wf = true := by
  decide +kernel

/-- A soft and a hard recipe write, in each state the hard one acts in. -/
theorem test_witness_RecipeWrite :
    let soft := applyBeats tool8 0x118 [fullBeat 0]
    let hard := applyBeats tool8 0x114 [fullBeat 0]
    hardDiffers tool8 soft 0x118 = false ∧ soft ≠ tool8 ∧ hardDiffers tool8 hard 0x114 = true ∧ armed8.serves ∧
      (acquiring8 5).serves ∧ (closing8 0 .complete).serves ∧ armed8.recipe.shadow = tool8 ∧
      armed8.dropDecision .s 0x114 [fullBeat 0] = false ∧ (owing (inState .arming)).owedOk ∧
      (pendingPlan (owing (inState .arming)) plan8).stroke.pendingPlan = some plan8 := by
  decide +kernel

/-- The hard bits of each row of the table, at its ends and just outside them; a write that moves the ring and one that does not. -/
theorem test_witness_HardBits :
    let differs (off bit : Nat) : Bool := hardDiffers [] (memOf [(off, 2 ^ bit)]) off
    ([(0, 0), (0x1C, 31), (0x40, 0), (0x40, 9), (0x70, 16), (0x70, 25), (0x100, 0), (0x1270, 7), (0x110, 1), (0x12F0, 0),
      (0x114, 31), (0x12F4, 0), (0x1400, 16), (0x23FC, 20), (0x1400, 24)].all fun x => differs x.1 x.2) = true ∧
    ([(0x20, 0), (0x40, 10), (0x70, 26), (0x100, 8), (0x104, 0), (0x110, 2), (0x12F0, 31), (0x118, 0), (0x1400, 15),
      (0x23FC, 21), (0x1400, 25)].all fun x => !differs x.1 x.2) = true ∧
    ([0xC, 0x10].all fun a => (applyBeats tool8 a [fullBeat 0x20000020]).readWord a != tool8.readWord a) = true ∧
    armed8.dropDecision .s 0xC [fullBeat 0] = false ∧ (applyBeats tool8 0x118 [fullBeat 0]).readWord 0xC = tool8.readWord 0xC := by
  decide +kernel

/-- A landing write that fails each of the tests 1 to 4, at the footprint's ends, and one without room. -/
theorem test_witness_LandingWriteNotTaken :
    let lands (s : State) (a : Nat) : Bool :=
      s.inLanding a && !s.inRegion a && decide (s.portOpen .a ∧ s.portOpen .s) && (Request.read (toAddr a) 1).wellFormed
    lands armed8 0x50000000 = true ∧ lands armed8 0x5000007C = true ∧ lands (closing8 0 .complete) 0x50000000 = true ∧
      armed8.inLanding 0x50000080 = false ∧ armed8.inLanding 0x4FFFFFFC = false ∧
      (Plan.word plan8 0).getLsbD 16 = false ∧ 0x50000004 ≠ landingBase tool8 + 4 * armed8.remap.sequence ∧
      armed8.landingAccepted .a (word 0x50000000 0) = true ∧ 64 < (entries armed8 64 true).remap.queue.length + 1 := by
  decide +kernel

/-- Landing writes that are taken: the first sample, the last, and one whose second beat is trimmed. -/
theorem test_witness_LandingWriteTaken :
    let ok (s : State) (w : Write) : Bool :=
      (Request.write w).wellFormed && !s.inRegion w.addr.toNat && s.inLanding w.addr.toNat &&
        decide (w.addr.toNat = landingBase s.recipe.shadow + 4 * s.remap.sequence) && w.beats.all Beat.full &&
        decide (s.remap.queue.length + w.beats.length ≤ 64)
    let last : State := { acquiring8 23 with stroke :=
      { (acquiring8 23).stroke with latched := planOf 0x40007 0x10003 0x01900064 0 0 } }
    ok armed8 (word 0x50000000 1) = true ∧ ok (acquiring8 31) (word 0x5000007C 1) = true ∧
      ok last { addr := 0x5000005C, beats := [fullBeat 1, fullBeat 1] } = true ∧
      ok last { addr := 0x5000005C, beats := [fullBeat 1] } = true ∧ ok (entries armed8 63 true) (word 0x50000000 1) = true ∧
      (withA armed8 (.waiting (.write (word 0x50000000 1)) .room)).portA.status = .waiting (.write (word 0x50000000 1)) .room := by
  decide +kernel

/-- A write that runs past the last sample: 3 cells of 3 steps. -/
theorem test_witness_LandingWriteTrimmed :
    let s : State := { acquiring8 8 with
      recipe := { idle.recipe with shadow := applyBeats tool8 0 [fullBeat 3] }
      stroke := { (acquiring8 8).stroke with latched := planOf 7 0x10003 0x01900064 0 0 } }
    s.inLanding 0x50000020 = true ∧ s.offsetsFor 2 = 1 ∧
      (after (.landingWrite .a { addr := 0x50000020, beats := [fullBeat 1, fullBeat 1] }) s).portA.answer = some .trimmed := by
  decide +kernel

/-- A beat of a judged pin, of an UNUSED one and of a FROZEN one. -/
theorem test_witness_LandingBeatJudged :
    let frozen : State := { acquiring8 2 with checker := { idle.checker with
      pins := idle.checker.pins.setIfInBounds 5 { PinContext.cleared .good with progress := .frozen } } }
    (acquiring8 2).landingAccepted .a (word 0x50000008 1) = true ∧ (acquiring8 2).inLanding 0x50000008 = true ∧
      (acquiring8 2).portOpen .a ∧ (acquiring8 2).remap.sequence < (acquiring8 2).cells * (acquiring8 2).steps ∧
      toolOf plan8 8 2 = (5, 0) ∧ ((acquiring8 2).pin 5).health = .good ∧ ((acquiring8 2).pin 5).progress = .before ∧
      (frozen.pin 5).progress = .frozen ∧ toolOf plan8 8 1 = (6, 0) ∧ ((acquiring8 1).pin 6).health = .unused := by
  decide +kernel

/-- Bursts: a halting beat with a beat behind it that is not judged, and the second beat of a pin under CELL_MAJOR judged against the
context that the first left. -/
theorem test_witness_LandingBurst :
    let halting := (acquiring8 18).presentBurst 18 false [fullBeat 3100, fullBeat 7]
    let s : State := { acquiring8 8 with stroke := { (acquiring8 8).stroke with latched := planOf 0x60007 0x10004 0x01900064 0 0 } }
    let burst := s.presentBurst 8 false [fullBeat 100, fullBeat 200]
    (acquiring8 18).landingAccepted .a { addr := 0x50000048, beats := [fullBeat 3100, fullBeat 7] } = true ∧
      halting.2.1 = true ∧ halting.1.map Tag.zone = [1, 0] ∧ halting.1[1]? = some Tag.zero ∧
      toolOf s.stroke.latched 8 8 = (5, 0) ∧ toolOf s.stroke.latched 8 9 = (5, 1) ∧
      burst.2.1 = false ∧ (burst.2.2.pin 5).samplesChecked = 2 ∧ (burst.2.2.pin 5).peakStep = some 1 := by
  decide +kernel

/-- Offsets, cells and steps at the ends of their ranges. -/
theorem test_witness_OffsetToCellAndStep :
    Plan.stepCount plan8 = 4 ∧ 31 < 8 * Plan.stepCount plan8 ∧ (7 : Nat) < 8 ∧ 3 < Plan.stepCount plan8 ∧
      (toolOf plan8 8 0).1 = (toolOf plan8 8 24).1 := by
  decide +kernel

theorem test_witness_step_answers : (∃ t, step armed8 = .next t) ∧ ∃ t, step { armed8 with pending := [.armingWalkEnd] } = .next t :=
  ⟨⟨_, rfl⟩, ⟨_, rfl⟩⟩

/-- Hypotheses on a sample and its pin: each flag, each zone kind, each side of each limit, zone advance at its ends. -/
theorem test_witness_judging :
    let x := PinContext.cleared .good
    let y := { x with zoneIndex := 2, previousForce := some 900 }
    (x.addFault .collapse 3).hasFault .collapse = true ∧ x.hasFault .collapse = false ∧ (0x20000#32).getLsbD 17 = true ∧
      (0x10000#32).getLsbD 17 = false ∧ (0x10000#32).getLsbD 16 = true ∧ (absoluteLimit profile9 9).toNat = 3000 ∧
      x.peakStep = none ∧ (x.addFault .noEntry 1).firstFaultStep = some 1 ∧ zoneCount profile9 9 ≤ 8 ∧
      x.zoneIndex ≤ zoneCount profile9 9 + 1 ∧
      ((judge profile9 9 3 500 x).1.ctx.progress, (judge profile9 9 0 500 x).1.ctx.progress,
        (judge profile9 9 8 500 y).1.ctx.progress, (judge profile9 9 12 500 x).1.ctx.progress) =
          (.inZone, .before, .between, .after) ∧
      ((judge profile9 9 4 1000 x).2.band, (judge profile9 9 4 1001 x).2.band, (judge profile9 9 4 599 x).2.band,
        (judge profile9 9 4 600 x).2.band) = (.inBand, .above, .below, .inBand) ∧
      (zoneKind profile9 9 1, zoneKind profile9 9 2, zoneKind profile9 9 3) = (.entry, .travel, .seat) ∧
      (floorOf profile9 9 1).toNat ≤ 200 ∧ firstStep profile9 9 1 = 1 ∧ lastStep profile9 9 1 = 3 ∧
      (dropLimit profile9 9).toNat ≠ 0 ∧ 599 + (dropLimit profile9 9).toNat < 900 ∧ tolerance profile9 9 1 < 0 + 1 ∧
      0 + 1 ≤ tolerance profile9 9 2 ∧ forgiving profile9 9 2 = true := by
  decide +kernel

/-- Samples below the floor of an ENTRY and of a SEAT zone, and one that is not IN_ZONE: no entry, no seat, no mark. -/
theorem test_witness_BelowTheFloor :
    let x := PinContext.cleared .good
    let y := { x with zoneIndex := 3 }
    (judge profile9 9 1 199 x).1.ctx.entryStep = none ∧ (judge profile9 9 1 200 x).1.ctx.entryStep = some 1 ∧
      (judge profile9 9 9 1999 y).1.ctx.seated = false ∧ (judge profile9 9 9 2000 y).1.ctx.seated = true ∧
      (judge profile9 9 0 500 x).1.ctx.entryStep = none ∧ (judge profile9 9 0 500 x).2.mark = false := by
  decide +kernel

/-- The ring in use with the given capacity and with an invalid one; the window recognised at its ends and in its states alone. -/
theorem test_witness_RingAndWindow :
    let cap (n : Nat) : Nat := { idle with recipe := { idle.recipe with shadow := memOf [(0x10, n)] } }.ringCapacity
    [cap 16, cap 4096, cap 32, cap 8, cap 8192, cap 24] = [16, 4096, 32, 16, 16, 16] ∧
      ([0x50000000, 0x5000007F].all fun a => armed8.inLanding a && (closing8 0 .complete).inLanding a) = true ∧
      ([0x4FFFFFFF, 0x50000080].all fun a => !armed8.inLanding a) = true ∧
      { armed8 with stroke := { armed8.stroke with state := .arming } }.inLanding 0x50000000 = false ∧
      { armed8 with recipe := { armed8.recipe with shadow := applyBeats tool8 0 [fullBeat 1025] } }.inLanding 0x50000000 = false := by
  decide +kernel

theorem test_witness_BeatCountsAndHalting :
    let s := acquiring8 18
    (s.pin 5).health ≠ .unused ∧ (s.pin 5).progress ≠ .frozen ∧ slotOf s.recipe.shadow s.stroke.latched 5 = some 0 ∧
      (s.presentBeat 5 2 3100 false).2.1 = true ∧ (s.presentBeat 5 2 3000 false).2.1 = false ∧
      (armed8.presentBeat 5 2 3100 false).2.1 = false := by
  decide +kernel

theorem test_witness_PinContextsOnlyGrow :
    let s := { acquiring8 5 with pending := [Instr.warmReset] }
    s.pending.head? = some .warmReset ∧ Instr.warmReset ≠ .armingWalkEnd ∧ (∀ b k, some Instr.warmReset ≠ some (.powerOnReset b k)) :=
  ⟨rfl, nofun, nofun⟩

/-- A success of an arming at the front of the queue. -/
theorem test_witness_PinContextsCleared :
    let s : State := { armed8 with
      pending := [.armingWalkEnd], stroke := { armed8.stroke with state := .arming, armTimer := none, walk := .finished } }
    s.pending.head? = some .armingWalkEnd ∧ s.stroke.state = .arming ∧ (match step s with | .next t => t.stroke.state | .fault _ => .idle | .refused _ => .idle) = .armed := by
  decide +kernel

/-- A check that passes, one that fails, with and without a pending plan. -/
theorem test_witness_ArmingCheck :
    let s (p : WalkPosition) : State := { armed8 with stroke := { armed8.stroke with state := .arming, armTimer := none, walk := p } }
    (s (.check 1)).checkFailure (.check 1) = none ∧ (s (.check 9)).stroke.walk ≠ .finished ∧ (s (.check 9)).owedOk ∧
      (inState .arming).checkFailure (.check 1) = some (.geometry, 1) ∧
      (inState .arming).checkFailure (.check 10) = none ∧ (inState .arming).checkFailure (.check 6) = some (.plan, 6) ∧
      (pendingPlan (inState .arming) plan8).stroke.pendingPlan = some plan8 ∧ 0 < armed8.footprintSize ∧
      0 < ringCapacityField tool8 := by
  decide +kernel

/-- The order of the walk: check 16, the one active slot, its one used pin, the end. -/
theorem test_witness_WalkOrder :
    WalkPosition.after tool8 plan8 (.check 16) = .slot 0 ∧ WalkPosition.after tool8 plan8 (.slot 0) = .pin 5 ∧
      WalkPosition.after tool8 plan8 (.pin 5) = .finished ∧ (∀ c < 5, usedPin tool8 plan8 c = false) ∧
      profileValid tool8 0 4 = true ∧ profileValid tool8 0 3 = false := by
  decide +kernel

/-- Each condition of the end of the walk holding first, and none. -/
theorem test_witness_EndOfWalk :
    let s : State := { armed8 with stroke := { armed8.stroke with state := .arming, armTimer := none, walk := .finished } }
    let freeze : State := { s with stroke := { s.stroke with latched := planOf 0x240007 0x10004 0x01900064 0 0 } }
    { s with recipe := { s.recipe with sum := 1 } }.endRefusal = some .checksum ∧ freeze.endRefusal = some .unfrozen ∧
      { freeze with protection := 3 }.endRefusal = none ∧
      { s with lines := { s.lines with haltLatch := true } }.endRefusal = some .halted ∧
      { s with lines := { s.lines with force := .forcedOn } }.endRefusal = some .halted ∧
      { s with lines := { s.lines with pressAbort := true } }.endRefusal = some .pressNotReady ∧
      (withFlags s 1 1).endRefusal = some .eventPending ∧ (withFlags s 1 2).endRefusal = none ∧ s.endRefusal = none ∧ s.owedOk := by
  decide +kernel

theorem test_witness_TimerExpiries :
    armed8.stroke.armTimer ≠ none ∧ armed8.stroke.samplesTaken = 0 ∧ (acquiring8 1).stroke.stallTimer ≠ none ∧
      0 < (acquiring8 1).stroke.samplesTaken ∧ Plan.active plan8 0 = true ∧
      ([armed8, acquiring8 1].all fun s => decide ((withA s (.waiting (.write (word 0x50000004 1)) .room)).portA.status =
        .waiting (.write (word 0x50000004 1)) .room)) = true := by
  decide +kernel

/-- Steps of the walk: a pin due and not due, with room, without it, given up under OMIT; a slot with and without a slot after it; a
record that enters an empty queue on a full ring; a final check that fails a GOOD pin of an active slot; under COMPLETE, a pin in an ENTRY
and in a SEAT zone, the exit check met and not met. -/
theorem test_witness_ClosingWalkSteps :
    let s := closing8 0 .complete
    let full := queued s (List.replicate 14 (.slot (s.composeEmptySlot 0)))
    let omitting : State := { ring full 15 0 with stroke := { full.stroke with latched := planOf 0x180007 0x10004 0x01900064 0 0 } }
    let two : State := { closing8 6 .complete with stroke := { s.stroke with latched := planOf 7 0xB0004 0x01900064 0 0 } }
    let stalled := closing8 5 .stalled
    let zoned (kind : Nat) : Memory := applyBeats tool8 0x110 [fullBeat (toAddr kind)]
    let context (entry : Option Nat) (seated : Bool) : PinContext :=
      { PinContext.cleared .good with progress := .inZone, entryStep := entry, seated := seated }
    let inZone (kind : Nat) (entry : Option Nat) (seated : Bool) : State := { s with
      recipe := { s.recipe with shadow := zoned kind }
      checker := { s.checker with pins := s.checker.pins.setIfInBounds 5 (context entry seated) } }
    s.nextPin = some 5 ∧ s.stroke.outcome = some .complete ∧ (s.finalCheck 5).pinDue 5 = false ∧
      (stalled.finalCheck 5).pinDue 5 = true ∧ (Plan.word omitting.stroke.latched 0).getLsbD 19 = true ∧
      full.entries Record.general = 14 ∧ omitting.omits = true ∧ (closing8 6 .complete).nextPin = none ∧
      activeFrom plan8 1 = none ∧ activeFrom two.stroke.latched 1 = some 1 ∧ activeFrom two.stroke.latched 2 = some 3 ∧
      (ring stalled 15 0).ringFull = true ∧ (ring stalled 15 0).writerBusy = false ∧ stalled.writer.queue = [] ∧
      (stalled.pin 5).health = .good ∧ ((stalled.finalCheck 5).pin 5).health = .failed ∧
      Plan.active stalled.stroke.latched 0 = true ∧ firstCell tool8 0 ≤ 5 ∧ 5 ≤ lastCell tool8 0 ∧
      (zoneKind (zoned 0) 0 1 = .entry ∧ zoneKind (zoned 2) 0 1 = .seat) ∧
      ([inZone 0 (some 2) false, inZone 2 none true].all fun u => decide ((u.pin 5).progress = .inZone ∧ (u.finalCheck 5).pin 5 = u.pin 5)) = true ∧
      ((inZone 0 none true).finalCheck 5).pin 5 = ((inZone 0 none true).pin 5).addFault .noEntry 4 ∧
      ((inZone 2 (some 2) false).finalCheck 5).pin 5 = ((inZone 2 (some 2) false).pin 5).addFault .notSeated 4 := by
  decide +kernel

/-- Grants: none ready, four outstanding, high water at 48 and rotation at 47, each claimant ready, the report writer in each of its
ways and kept from writing. -/
theorem test_witness_Grant :
    let r := Request.read 0x1000 1
    let rec1 := queued armed8 [.refusal (refusalOf 1 .halted)]
    let dirtyIt (s : State) (l : WriteKind) : State := { s with writer := { s.writer with dirty := true, lastIssued := l } }
    idle.winner = none ∧ (entries idle 48 false).winner = some .remap ∧
      (withA (entries idle 47 false) (.outstanding r false)).winner = some .portA ∧
      (withA idle (.abandoned r false)).winner = some .portA ∧ (withS idle (.outstanding r false)).winner = some .portS ∧
      rec1.winner = some .report ∧ (dirtyIt idle .status).winner = some .report ∧ State.reset.winner = some .report ∧
      State.reset.stroke.state = .loading ∧ (ring rec1 15 0).ready .report = false ∧
      (dirtyIt (ring rec1 15 0) .record).ready .report = true ∧
      (State.outstanding rec1 (tx .status r)).ready .report = false ∧
      { rec1 with ctrlBase := 2, recipe := { rec1.recipe with shadow := memOf [(0xC, 0x3FFFFFE4), (0x10, 16)] } }.ready .report = false ∧
      4 ≤ { idle with arbiter := { idle.arbiter with inflight := List.replicate 4 (tx .remapBeat r) } }.arbiter.inflight.length := by
  decide +kernel

/-- Answers: a read and a write outstanding, an abandoned port, a grid write with and without discard; a request that waits on the entry
alone, and on another behind it; in ARMING, with MEMERR enabled. -/
theorem test_witness_Answers :
    let s := State.outstanding (withS idle (.outstanding (.read 0x1000 16) true)) (tx (.passThrough .s) (.read 0x1000 16))
    let a := State.outstanding (withS idle (.abandoned (.read 0x1000 16) true)) (tx (.passThrough .s) (.read 0x1000 16))
    let g := State.outstanding (entries idle 1 true) (tx .remapBeat (wordWrite 0x50001000 [1]))
    let hz := withS g (.waiting (.read 0x50000FFC 2) .hazard)
    let armIt : State := withFlags (State.outstanding (entries (owing (inState .arming)) 1 true) (tx .remapBeat (wordWrite 0x50001000 [1]))) 0 0x80
    s.arbiter.inflight.length = 1 ∧ (s.port .s).status = .outstanding (.read 0x1000 16) true ∧
      (a.port .s).status = .abandoned (.read 0x1000 16) true ∧ g.remap.queue.length = 1 ∧
      ((after .warmReset g).arbiter.inflight.map Transaction.discard) = [true] ∧
      (hz.port .s).status = .waiting (.read 0x50000FFC 2) .hazard ∧ hz.waitingFor .a .room = none ∧ hz.waitingFor .a .hazard = none ∧
      hz.inRegion 0x50000FFC = false ∧ (∀ j < 2, ∀ y ∈ hz.remap.queue.tail, y.addr ≠ toAddr (0x50000FFC + 4 * j)) ∧
      (∃ j < 2, ∃ y ∈ (entries hz 2 true).remap.queue.tail, y.addr = toAddr (0x50000FFC + 4 * j)) ∧
      armIt.stroke.state = .arming ∧ armIt.flagSet .memerr = false ∧ armIt.lines.enables.getLsbD 7 = true ∧ armIt.owedOk := by
  decide +kernel

/-- Steps of the remap queue: emptied by a reset, answered with and without a wait, and any other. -/
theorem test_witness_RemapQueue :
    let g := State.outstanding (entries idle 1 true) (tx .remapBeat (wordWrite 0x50001000 [1]))
    let front (c : Instr) (s : State) : State := { s with pending := [c] }
    ([front .warmReset g, front (.gridWriteAnswer true) g, front .memoryGrant g].map fun s =>
        (match step s with | .next t => t.remap.queue.length | .fault _ => 9 | .refused _ => 9)) = [0, 0, 1] ∧
      (front .warmReset g).lines.resetN = false ∧ (g.arbiter.inflight.map fun x => (x.kind, x.discard)) = [(.remapBeat, false)] ∧
      (∀ p, g.waitingFor p .room = none ∧ g.waitingFor p .hazard = none) :=
  ⟨by decide +kernel, by decide +kernel, by decide +kernel, fun p => by cases p <;> decide +kernel⟩

/-- Completions: a refusal, a STROKE_VERDICT in REPORTING with and without a pending plan, an owed refusal, a record behind the head
that meets the full ring, an arming that goes on and one that a flag abandons. -/
theorem test_witness_Completions :
    let v := idle.composeStroke .stalled
    let rep := queued (inState .reporting) [.stroke v]
    let pend := withFlags (pendingPlan rep plan8) 0 1
    let waits := ring (queued idle [.slot (idle.composeEmptySlot 0), .refusal (refusalOf 1 .halted)]) 14 0
    let armIt := withFlags (owing (inState .arming)) 0 2
    rep.stroke.state = .reporting ∧ rep.walker.state ≠ .paused ∧ rep.owedOk ∧ pend.stroke.pendingPlan = some plan8 ∧
      pend.flagSet .verdict = false ∧ pend.lines.enables.getLsbD 0 = true ∧
      (owing (closing8 0 .stalled)).stroke.owed = [refusalOf 2 .halted] ∧
      ((owing (closing8 0 .stalled)).writer.queue.tail.filter fun y => y.record.isRefusal).length = 0 ∧
      waits.writer.queue.tail ≠ [] ∧ waits.ringCapacity = 16 ∧ (14 + 1 + 1) % 16 = waits.writer.consumer ∧
      armIt.stroke.state = .arming ∧ armIt.flagSet .refusal = false ∧ armIt.lines.enables.getLsbD 1 = true ∧ armIt.owedOk ∧
      armIt.waitingFor .s .refusalEntry = none := by
  decide +kernel

/-- A PAUSED walk with an entry freed, for a PIN_RECORD and for a SLOT_VERDICT; with none freed, where OMIT gives the record up and where
it does not. -/
theorem test_witness_PausedWalk :
    let slot := Record.slot (idle.composeEmptySlot 0)
    let s := closing8 5 .stalled
    let paused (h : HeldRecord) (rs : List Record) (p : Nat) : State :=
      { ring (queued s rs) p 0 with
        walker := { s.walker with state := .paused, held := some h }
        stroke := { s.stroke with latched := planOf 0x180007 0x10004 0x01900064 0 0 } }
    let refused := Record.refusal (refusalOf 1 .halted) :: List.replicate 14 slot
    ([paused .pinRecord (List.replicate 14 slot) 0, paused .slotVerdict (List.replicate 14 slot) 0, paused .pinRecord refused 14,
        paused .pinRecord refused 0].map fun x => (x.writer.queue.tail.filter fun y => y.record.general).length) = [13, 13, 14, 14] ∧
      (paused .slotVerdict refused 0).stroke.owed = [] ∧ (paused .slotVerdict refused 0).stroke.outcome = some .stalled ∧
      s.walker.cursorSlot < 4 ∧ (Plan.word (paused .pinRecord refused 14).stroke.latched 0).getLsbD 20 = true ∧
      (14 + 1 + 1) % 16 = (paused .pinRecord refused 14).writer.consumer ∧
      (0 + 1 + 1) % 16 ≠ (paused .pinRecord refused 0).writer.consumer := by
  decide +kernel

/-- A record that would meet the control region, at both ends of it. -/
theorem test_witness_RecordMeetingTheRegion :
    let s (b p : Nat) := ring (queued { idle with recipe := { idle.recipe with shadow := memOf [(0xC, b), (0x10, 16)] } }
      [.refusal (refusalOf 1 .halted)]) p 0
    (s 0x20000000 0).recordMeetsRegion = true ∧ (s 0x20003FE0 0).recordMeetsRegion = true ∧
      (s 0x1FFFFFE0 0).recordMeetsRegion = false ∧ (s 0x20004000 0).recordMeetsRegion = false ∧
      (s 0x20000000 0).ringFull = false ∧ (s 0x20000000 0).writerBusy = false ∧
      (s 0x20000000 0).writerChoice = .toRegion := by
  decide +kernel

/-- Status writes: with a head record that meets a full ring, and without; in ARMING, with RING_WAIT and MEMERR enabled. -/
theorem test_witness_Status :
    let full := ring (queued idle [.refusal (refusalOf 1 .halted)]) 15 0
    let armIt := withFlags (ring (owing (inState .arming)) 15 0) 0 0xA0
    full.writer.queue ≠ [] ∧ full.ringFull = true ∧ full.writer.waitMarked = false ∧ full.stroke.state ≠ .arming ∧
      idle.writer.queue = [] ∧ armIt.stroke.state = .arming ∧ armIt.writer.queue ≠ [] ∧ armIt.ringFull = true ∧
      armIt.writer.waitMarked = false ∧ armIt.flagSet .ringWait = false ∧ armIt.lines.enables.getLsbD 5 = true ∧
      armIt.flagSet .memerr = false ∧ armIt.lines.enables.getLsbD 7 = true ∧ armIt.owedOk := by
  decide +kernel

/-- The layouts' bounds hold of the records that the part composes, and of a state of the tool. -/
theorem test_witness_FormatLayouts :
    let s := (closing8 5 .stalled).finalCheck 5
    let p := s.composePin 0 5
    let v := s.composeSlot 0
    let k := s.composeStroke .stalled
    (refusalOf 1 .halted).detailIndex < 65536 ∧ k.stepsTaken < 65536 ∧ k.samplesTaken < 2 ^ 32 ∧ k.totalFailing < 65536 ∧
      v.slot < 4 ∧ v.pinsChecked < 65536 ∧ v.pinsFailing < 65536 ∧ v.allowance < 65536 ∧ p.slot < 4 ∧ p.cell < 1024 ∧
      p.zoneReached < 16 ∧ p.samplesChecked < 65536 ∧ p.firstFaultStep = some 4 ∧ p.entryStep = none ∧
      s.writer.producer < 4096 ∧ s.writer.consumer < 4096 ∧ Tag.zero.zone < 16 := by
  decide +kernel

/-- Load answers: the first line, the last recipe line, the plan line. -/
theorem test_witness_LoadReadAnswer :
    let s (n : Nat) := State.outstanding { State.reset with writer := { State.reset.writer with loadAnswered := n } }
      (tx (.loadRead n) (.read (toAddr (64 * n)) 16))
    (s 0).stroke.state = .loading ∧ (s 143).stroke.state = .loading ∧ (s 144).writer.loadAnswered + 1 = 145 ∧
      (s 143).writer.loadAnswered + 1 ≠ 145 ∧ (s 0).recipe.shadow.wf = true := by
  decide +kernel

/-- The states of these tests are in order: a state that is not the reset state has the invariants of Safety (but for the two that
range over all cells). -/
theorem test_witness_invariants :
    (acquiring8 5).stroke.state = .acquiring ∧ (acquiring8 5).stroke.stallTimer ≠ none ∧ (acquiring8 5).stroke.armTimer = none ∧
      (acquiring8 5).walker.state = .stopped ∧ (acquiring8 5).writer.loadAnswered = Config.loadReads ∧
      (acquiring8 5).loadsOut = 0 ∧ (acquiring8 5).portA.waitingOk = true ∧ Memory.wf (acquiring8 5).recipe.shadow = true ∧
      (acquiring8 5).writer.producer < (acquiring8 5).ringCapacity := by
  decide +kernel

end Sys2Proof.Tests
end

/-! PROOFS. The statements of spec/02_checking_a_sample.md: the band of a sample (R36), and what a pin context keeps between two
clearings (R29). -/

namespace Sys2Proof.Machine

/-! ## The place of a pin through the stages of an IN_ZONE sample -/

@[simp] theorem Judging.add_place (j : Judging) (k : FaultKind) (st : Nat) :
    (j.add k st).ctx.zoneIndex = j.ctx.zoneIndex ∧ (j.add k st).ctx.progress = j.ctx.progress := by
  unfold Judging.add
  split <;> simp

@[simp] theorem Judging.addIf_place (j : Judging) (b : Bool) (k : FaultKind) (st : Nat) :
    (j.addIf b k st).ctx.zoneIndex = j.ctx.zoneIndex ∧ (j.addIf b k st).ctx.progress = j.ctx.progress := by
  cases b <;> simp [Judging.addIf]

@[simp] theorem Judging.marks_place (j : Judging) (m : Memory) (n st : Nat) (f : Counts) :
    (j.marks m n st f).ctx.zoneIndex = j.ctx.zoneIndex ∧ (j.marks m n st f).ctx.progress = j.ctx.progress := by
  unfold Judging.marks
  dsimp only
  split <;> (try split) <;> exact ⟨rfl, rfl⟩

@[simp] theorem Judging.tallyStage_place (j : Judging) (m : Memory) (n st : Nat) (b : Band) :
    (j.tallyStage m n st b).ctx.zoneIndex = j.ctx.zoneIndex ∧ (j.tallyStage m n st b).ctx.progress = j.ctx.progress := by
  unfold Judging.tallyStage
  dsimp only
  split
  · simp
  · split <;> exact ⟨rfl, rfl⟩

@[simp] theorem Judging.finish_place (j : Judging) (m : Memory) (n st : Nat) (f : Counts) :
    (j.finish m n st f).ctx.zoneIndex = j.ctx.zoneIndex ∧ (j.finish m n st f).ctx.progress = j.ctx.progress :=
  ⟨rfl, rfl⟩

/-- Stages 5 to 7 take the band from the zone in which stage 4 has placed the pin, and leave it there. -/
theorem Judging.inZoneStages_spec (j : Judging) (m : Memory) (n st : Nat) (f : Counts) :
    (j.inZoneStages m n st f).1.ctx.zoneIndex = j.ctx.zoneIndex ∧
      (j.inZoneStages m n st f).1.ctx.progress = j.ctx.progress ∧
      (j.inZoneStages m n st f).2 = bandOf m n j.ctx.zoneIndex f := by
  simp [Judging.inZoneStages]

/-- A judged sample of a cell that is not open leaves the pin where stages 3 and 4 have placed it (R34, R35). -/
theorem judge_place {m : Memory} {n st : Nat} {w : Word} {x : PinContext} (hw : cellOpen w = false) :
    (judge m n st w x).1.ctx.zoneIndex = (judgeEarly m n st w x).ctx.zoneIndex ∧
      (judge m n st w x).1.ctx.progress = (judgeEarly m n st w x).ctx.progress := by
  simp only [judge, hw, Bool.false_eq_true, if_false]
  split
  · simp [Judging.inZoneStages_spec]
  · simp

/-- The zone and the band in the tag of a judged sample of a cell that is not open (R36, R47). -/
theorem judge_tag {m : Memory} {n st : Nat} {w : Word} {x : PinContext} (hw : cellOpen w = false) :
    let r := judge m n st w x
    (r.1.ctx.progress = .inZone →
      r.2.zone = r.1.ctx.zoneIndex ∧ r.2.band = bandOf m n r.1.ctx.zoneIndex (forceOf w)) ∧
    (r.1.ctx.progress ≠ .inZone → r.2.zone = 0 ∧ r.2.band = .notChecked) := by
  dsimp only
  obtain ⟨hzone, hprogress⟩ := judge_place (m := m) (n := n) (st := st) (x := x) hw
  rw [hzone, hprogress]
  by_cases hin : (judgeEarly m n st w x).ctx.progress = .inZone <;>
    simp [judge, hw, hin, Judging.inZoneStages_spec]

/-! ## The band -/

theorem bandOf_of_above {m : Memory} {n k : Nat} {f : Counts} (h : (ceilingOf m n k).toNat < f.toNat) :
    bandOf m n k f = .above := if_pos h

theorem bandOf_of_not_above {m : Memory} {n k : Nat} {f : Counts} (h : f.toNat ≤ (ceilingOf m n k).toNat) :
    bandOf m n k f = if f < floorOf m n k then .below else .inBand := if_neg (Nat.not_lt.mpr h)

theorem bandOf_of_below {m : Memory} {n k : Nat} {f : Counts} (hc : f.toNat ≤ (ceilingOf m n k).toNat)
    (hf : f.toNat < (floorOf m n k).toNat) : bandOf m n k f = .below := by
  rw [bandOf_of_not_above hc]
  exact if_pos hf

theorem bandOf_of_between {m : Memory} {n k : Nat} {f : Counts} (hc : f.toNat ≤ (ceilingOf m n k).toNat)
    (hf : (floorOf m n k).toNat ≤ f.toNat) : bandOf m n k f = .inBand := by
  rw [bandOf_of_not_above hc]
  exact if_neg (Nat.not_lt.mpr hf)

/-- With the floor above the ceiling a force that is not ABOVE is BELOW (R36). -/
theorem bandOf_ne_inBand {m : Memory} {n k : Nat} (f : Counts) (h : (ceilingOf m n k).toNat < (floorOf m n k).toNat) :
    bandOf m n k f ≠ .inBand := by
  by_cases hc : (ceilingOf m n k).toNat < f.toNat
  · simp [bandOf_of_above hc]
  · simp [bandOf_of_below (Nat.not_lt.mp hc) (by omega)]

/-- Settles O35: the tag's band is `bandOf` at the zone index the sample leaves, and `bandOf` tests the ceiling first. -/
theorem bandCeilingFirst : Obligations.BandCeilingFirst := by
  intro m n step w x hw
  obtain ⟨hin, hout⟩ := judge_tag (m := m) (n := n) (st := step) (x := x) (show cellOpen w = false from hw)
  refine ⟨fun hp => ?_, hout⟩
  obtain ⟨hzone, hband⟩ := hin hp
  rw [hband]
  exact ⟨hzone, bandOf_of_above, bandOf_of_below, bandOf_of_between, bandOf_ne_inBand _⟩

/-! ## No pin context of the part loses anything -/

/-- Every pin context of the later state has grown from the earlier one's (R29). -/
def State.PinsGrow (s t : State) : Prop := ∀ c, (s.pin c).Grows (t.pin c)

namespace State.PinsGrow

theorem of_checker {s t : State} (h : t.checker = s.checker) : s.PinsGrow t := fun c => by
  rw [State.pin_congr h c]
  exact .refl _

theorem refl (s : State) : s.PinsGrow s := of_checker rfl

theorem trans {s t u : State} (a : s.PinsGrow t) (b : t.PinsGrow u) : s.PinsGrow u := fun c => (a c).trans (b c)

/-- An operation that leaves the pin checker alone may come before. -/
theorem after {s t u : State} (b : t.PinsGrow u) (h : t.checker = s.checker) : s.PinsGrow u := (of_checker h).trans b

/-- An operation that leaves the pin checker alone may follow. -/
theorem andThen {s t u : State} (a : s.PinsGrow t) (h : u.checker = t.checker) : s.PinsGrow u := a.trans (of_checker h)

end State.PinsGrow

/-! ### Landing writes -/

theorem State.pinsGrow_landBeat (s : State) (o : Nat) (b : Beat) (h : Bool) : s.PinsGrow (s.landBeat o b h).1 :=
  fun d => State.grows_presentBeat s _ _ b.data h d

theorem State.pinsGrow_landBeats (s : State) (o : Nat) (h : Bool) (bs : List Beat) : s.PinsGrow (s.landBeats o h bs).1 := by
  induction bs generalizing s o h with
  | nil => exact .refl s
  | cons b bs ih => exact (s.pinsGrow_landBeat o b h).trans (ih _ _ _)

/-- Of a taken landing write the pin checker sees the beats that receive an offset, and nothing else. -/
theorem State.takeLanding_checker (s : State) (p : PortId) (w : Write) :
    (s.takeLanding p w).checker = (s.startAcquiring.landBeats s.remap.sequence false
      (w.beats.take (s.offsetsFor w.beats.length))).1.checker := by
  unfold State.takeLanding
  dsimp only
  repeat' split
  all_goals simp

theorem State.pinsGrow_takeLanding (s : State) (p : PortId) (w : Write) : s.PinsGrow (s.takeLanding p w) :=
  ((State.pinsGrow_landBeats s.startAcquiring _ _ _).after (by simp)).andThen (s.takeLanding_checker p w)

theorem State.pinsGrow_landing (s : State) (p : PortId) (w : Write) : s.PinsGrow (s.landing p w) := by
  unfold State.landing
  split
  · split
    · exact s.pinsGrow_takeLanding p w
    · exact .of_checker (by simp)
  · exact .of_checker (by simp)

/-! ### Requests, and the ends of their waits -/

/-- Of the rows of the region decoder a landing write alone reaches the pin checker (R173). -/
theorem State.pinsGrow_classify (s : State) (p : PortId) (r : Request) : s.PinsGrow (s.classify p r) := by
  unfold State.classify
  split
  · split
    · exact .of_checker (by simp)
    · cases r <;> exact .of_checker (by simp)
  · cases r with
    | read a n => exact .of_checker (by simp)
    | write w =>
      dsimp only
      split
      · exact s.pinsGrow_landing p w
      · exact .of_checker (by simp)

theorem State.pinsGrow_handle (s : State) (p : PortId) (r : Request) : s.PinsGrow (s.handle p r) := by
  unfold State.handle
  split
  · exact s.pinsGrow_classify p r
  · exact .of_checker (by simp)

theorem State.pinsGrow_releaseHeld (s : State) (p : PortId) : s.PinsGrow (s.releaseHeld p) := by
  unfold State.releaseHeld
  split
  · split
    · exact .refl s
    · exact (State.pinsGrow_handle _ p _).after (by simp)
  · exact .refl s

theorem State.pinsGrow_presentRequest (s : State) (p : PortId) (r : Request) : s.PinsGrow (s.presentRequest p r) :=
  (State.pinsGrow_releaseHeld _ p).after (by simp)

theorem State.pinsGrow_endReset (s : State) (first : PortId) : s.PinsGrow (s.endReset first) :=
  ((State.pinsGrow_releaseHeld _ first).after (by rfl)).trans (State.pinsGrow_releaseHeld _ _)

theorem State.pinsGrow_endWait (s : State) (p : PortId) (c : WaitCause) : s.PinsGrow (s.endWait p c) := by
  unfold State.endWait
  split
  · exact .refl s
  · split
    · exact (State.pinsGrow_classify _ p _).after (by simp)
    · exact .refl s

theorem State.pinsGrow_endQueueWait (s : State) (p : PortId) : s.PinsGrow (s.endQueueWait p) :=
  (s.pinsGrow_endWait p .room).trans (State.pinsGrow_endWait _ p .hazard)

theorem State.pinsGrow_endQueueWaits (s : State) : s.PinsGrow s.endQueueWaits :=
  (s.pinsGrow_endQueueWait .a).trans (State.pinsGrow_endQueueWait _ .s)

/-! ### Records and the closing walk -/

theorem State.pinsGrow_afterRecord (s : State) (r : Record) : s.PinsGrow (s.afterRecord r) := by
  unfold State.afterRecord
  split
  · exact (State.pinsGrow_endWait _ .s .refusalEntry).after (by simp)
  · exact .of_checker (by simp)

theorem State.pinsGrow_completeRecord (s : State) (a : Word) (okay adv first : Bool) :
    s.PinsGrow (s.completeRecord a okay adv first) := by
  unfold State.completeRecord
  split
  · exact .refl s
  · next e es hq =>
    dsimp only
    split
    · exact (State.pinsGrow_afterRecord _ _).after (by simp)
    · refine .andThen (t := (s.freeHead a okay adv).afterRecord e.record) ?_ (by simp)
      exact (State.pinsGrow_afterRecord _ _).after (by simp)

/-- A step of the closing walk reaches the pin checker by the final check of its pin alone (R110). -/
theorem State.pinsGrow_walkStep (s : State) : s.PinsGrow s.walkStep := by
  unfold State.walkStep
  split
  · next c hc => exact .andThen (t := s.finalCheck c) (s.grows_finalCheck c) (by simp)
  · exact .of_checker (by simp)

/-! ### The end of the arming walk -/

theorem State.armSuccess_armed (s : State) : s.armSuccess.stroke.state = .armed := by simp [State.armSuccess]

/-- A refused arming goes on to IDLE or to ARMING with a pending plan (R86). -/
theorem State.refuseArming_not_armed (s : State) (r : RefusalRecord) : (s.refuseArming r).stroke.state ≠ .armed := by
  unfold State.refuseArming State.enterIdle
  split <;> simp

/-- The arming walk ends in ARMED exactly when nothing refuses it (R89, R90). -/
theorem State.armingEnd_armed_iff (s : State) : s.armingEnd.stroke.state = .armed ↔ s.endRefusal = none := by
  unfold State.armingEnd
  cases s.endRefusal with
  | none => simp [State.armSuccess_armed]
  | some why => simp [State.refuseArming_not_armed]

theorem State.armingEnd_checker_of_not_armed {s : State} (h : s.armingEnd.stroke.state ≠ .armed) :
    s.armingEnd.checker = s.checker := by
  rw [Ne, State.armingEnd_armed_iff] at h
  obtain ⟨why, hwhy⟩ := Option.ne_none_iff_exists'.mp h
  simp [State.armingEnd, hwhy]

/-! ### The two clearings -/

/-- A context of the clearing of R26, of a used pin or of an unused one. -/
def PinContext.Fresh (x : PinContext) : Prop := x = .cleared .good ∨ x = .cleared .unused

theorem PinContext.Fresh.spec {x : PinContext} (h : x.Fresh) :
    x.zoneIndex = 1 ∧ x.faults = 0#9 ∧ (x.health = .good ∨ x.health = .unused) := by
  obtain rfl | rfl := h
  · exact ⟨rfl, rfl, .inl rfl⟩
  · exact ⟨rfl, rfl, .inr rfl⟩

theorem State.pin_powerOn_fresh (s : State) (b : Fin 8) (k : Fin 4) (c : Nat) : ((s.powerOn b k).pin c).Fresh := by
  right
  by_cases hc : c < 1024
  · simp [State.pin, State.powerOn, State.reset, Vector.getD, hc]
  · exact State.pin_of_ge _ c (Nat.not_lt.mp hc)

theorem State.pin_clearPins_fresh (s : State) (c : Nat) : (s.clearPins.pin c).Fresh := by
  by_cases hc : c < 1024
  · have hpin : s.clearPins.pin c =
        .cleared (if usedPin s.recipe.shadow s.stroke.latched c then .good else .unused) := by
      simp [State.pin, State.clearPins, Vector.getD, hc]
    rw [hpin]
    split
    · exact .inl rfl
    · exact .inr rfl
  · exact .inr (State.pin_of_ge _ c (Nat.not_lt.mp hc))

theorem State.pin_armSuccess_fresh (s : State) (c : Nat) : (s.armSuccess.pin c).Fresh := by
  rw [State.pin_congr (s := s.clearPins) (by simp [State.armSuccess])]
  exact s.pin_clearPins_fresh c

/-! ### Every step -/

theorem State.pinsGrow_idleStep (s : State) : s.PinsGrow s.idleStep := by
  unfold State.idleStep
  split
  · exact s.pinsGrow_releaseHeld .a
  · split
    · exact s.pinsGrow_releaseHeld .s
    · exact .of_checker (by simp)

/-- ARMING_WALK_END makes the end of the walk, in ARMING with every check made, or nothing (R89). -/
theorem execArmingWalkEnd_cases {s t : State} (h : execArmingWalkEnd s = .next t) :
    (s.stroke.state = .arming ∧ s.stroke.walk = .finished ∧ t = s.armingEnd) ∨ t = s := by
  obtain rfl := Host.Outcome.next.inj h
  split
  · next hs => exact .inl ⟨hs.1, hs.2, rfl⟩
  · exact .inr rfl

theorem pinsGrow_execArmingWalkEnd {s t : State} (h : execArmingWalkEnd s = .next t)
    (harm : ¬ (s.stroke.state = .arming ∧ t.stroke.state = .armed)) : s.PinsGrow t := by
  obtain ⟨hs, -, rfl⟩ | rfl := execArmingWalkEnd_cases h
  · exact .of_checker (State.armingEnd_checker_of_not_armed fun ht => harm ⟨hs, ht⟩)
  · exact .refl _

theorem pinsGrow_execClosingWalkStep {s t : State} (h : execClosingWalkStep s = .next t) : s.PinsGrow t := by
  obtain rfl := Host.Outcome.next.inj h
  split
  · exact s.pinsGrow_walkStep
  · exact .refl s

theorem pinsGrow_execRecordToControlRegion {s t : State} {first : Bool}
    (h : execRecordToControlRegion first s = .next t) : s.PinsGrow t := by
  obtain rfl := Host.Outcome.next.inj h
  split
  · exact (State.pinsGrow_completeRecord _ _ _ _ _).after (by simp)
  · exact .refl s

theorem pinsGrow_execGridWriteAnswer {s t : State} {okay : Bool} (h : execGridWriteAnswer okay s = .next t) :
    s.PinsGrow t := by
  obtain rfl := Host.Outcome.next.inj h
  split
  · exact .refl s
  · split
    · exact .of_checker (by simp)
    · exact (State.pinsGrow_endQueueWaits _).after (by simp)

theorem pinsGrow_execRecordWriteComplete {s t : State} {okay first : Bool}
    (h : execRecordWriteComplete okay first s = .next t) : s.PinsGrow t := by
  obtain rfl := Host.Outcome.next.inj h
  split
  · exact .refl s
  · split
    · exact .of_checker (by simp)
    · exact (State.pinsGrow_completeRecord _ _ _ _ _).after (by simp)

theorem execPassThroughAnswer_checker {s t : State} {okay : Bool} {data : LineData}
    (h : execPassThroughAnswer okay data s = .next t) : t.checker = s.checker := by
  obtain rfl := Host.Outcome.next.inj h
  split
  · rfl
  · split <;> simp

theorem execStatusWriteComplete_checker {s t : State} {okay : Bool}
    (h : execStatusWriteComplete okay s = .next t) : t.checker = s.checker := by
  obtain rfl := Host.Outcome.next.inj h
  split
  · rfl
  · split <;> simp

theorem execLoadReadAnswer_checker {s t : State} {okay : Bool} {data : LineData}
    (h : execLoadReadAnswer okay data s = .next t) : t.checker = s.checker := by
  obtain rfl := Host.Outcome.next.inj h
  split
  · rfl
  · split <;> simp

/-- A command of the end of the walk that goes from ARMING to ARMED is a success (R90). -/
theorem execArmingWalkEnd_success {s t : State} (h : execArmingWalkEnd s = .next t) (hs : s.stroke.state = .arming)
    (ht : t.stroke.state = .armed) : t = s.armSuccess := by
  obtain ⟨-, -, rfl⟩ | rfl := execArmingWalkEnd_cases h
  · rw [State.armingEnd_armed_iff] at ht
    simp [State.armingEnd, ht]
  · exact absurd (hs.symm.trans ht) (by decide)

/-- Every command but the two that clear the contexts keeps what they hold (R29). -/
theorem pinsGrow_exec {i : Instr} {s t : State} (h : exec i s = .next t) (hpower : ∀ b k, i ≠ .powerOnReset b k)
    (harm : ¬ (i = .armingWalkEnd ∧ s.stroke.state = .arming ∧ t.stroke.state = .armed)) : s.PinsGrow t := by
  cases hr : requestOf i with
  | some pr =>
    obtain rfl := Host.Outcome.next.inj ((exec_requestOf s hr).symm.trans h)
    exact s.pinsGrow_presentRequest _ _
  | none =>
    cases i
    case powerOnReset b k => exact absurd rfl (hpower b k)
    case armingWalkEnd => exact pinsGrow_execArmingWalkEnd h fun ht => harm ⟨rfl, ht⟩
    case closingWalkStep => exact pinsGrow_execClosingWalkStep h
    case recordToControlRegion first => exact pinsGrow_execRecordToControlRegion h
    case gridWriteAnswer okay => exact pinsGrow_execGridWriteAnswer h
    case recordWriteComplete okay first => exact pinsGrow_execRecordWriteComplete h
    case passThroughAnswer okay data => exact .of_checker (execPassThroughAnswer_checker h)
    case statusWriteComplete okay => exact .of_checker (execStatusWriteComplete_checker h)
    case loadReadAnswer okay data => exact .of_checker (execLoadReadAnswer_checker h)
    case warmReset =>
      obtain rfl := Host.Outcome.next.inj h
      split
      · exact .refl s
      · exact .of_checker rfl
    case armingCheck =>
      obtain rfl := Host.Outcome.next.inj h
      split
      · exact .of_checker (by simp)
      · exact .refl s
    case resetNDeasserted first =>
      obtain rfl := Host.Outcome.next.inj h
      split
      · exact s.pinsGrow_endReset first
      · exact .refl s
    case waitingLandingWriteTaken | hazardWaitEnd | loadingWaitEnd | armWaitEnd =>
      obtain rfl := Host.Outcome.next.inj h
      exact s.pinsGrow_endWait _ _
    case pressAbort | armExpiry | stallExpiry | memoryGrant =>
      obtain rfl := Host.Outcome.next.inj h
      exact .of_checker (by simp)
    all_goals exact absurd hr (by simp [requestOf])

/-- A step takes its state from the idle step or from the front command, on the queue's rest. -/
theorem step_cases {s t : State} (h : step s = .next t) :
    (s.pending = [] ∧ t = s.idleStep) ∨ ∃ i q, s.pending = i :: q ∧ exec i (s.withPending q) = .next t := by
  unfold step at h
  cases hq : s.pending with
  | nil =>
    rw [hq] at h
    exact .inl ⟨rfl, (Host.Outcome.next.inj h).symm⟩
  | cons i q =>
    rw [hq] at h
    exact .inr ⟨i, q, rfl, h⟩

/-- Every step but power-on reset and the success of an arming takes nothing away from any context (R29). -/
theorem pinsGrow_step {s t : State} (h : step s = .next t)
    (hpower : ∀ b k, s.pending.head? ≠ some (.powerOnReset b k))
    (harm : ¬ (s.pending.head? = some .armingWalkEnd ∧ s.stroke.state = .arming ∧ t.stroke.state = .armed)) :
    s.PinsGrow t := by
  obtain ⟨-, rfl⟩ | ⟨i, q, hq, hi⟩ := step_cases h
  · exact s.pinsGrow_idleStep
  · simp only [hq, List.head?_cons, ne_eq, Option.some.injEq] at hpower harm
    exact (pinsGrow_exec hi hpower harm).after (by simp)

/-- Power-on reset and the success of an arming leave every context fresh (R26). -/
theorem pins_fresh_of_clearing {s t : State} (h : step s = .next t)
    (hclear : (∃ b k, s.pending.head? = some (.powerOnReset b k)) ∨
      (s.pending.head? = some .armingWalkEnd ∧ s.stroke.state = .arming ∧ t.stroke.state = .armed)) (c : Nat) :
    (t.pin c).Fresh := by
  obtain ⟨hq, -⟩ | ⟨i, q, hq, hi⟩ := step_cases h
  · simp [hq] at hclear
  · simp only [hq, List.head?_cons, Option.some.injEq] at hclear
    obtain ⟨b, k, rfl⟩ | ⟨rfl, harming, harmed⟩ := hclear
    · obtain rfl := Host.Outcome.next.inj hi
      exact State.pin_powerOn_fresh _ b k c
    · rw [execArmingWalkEnd_success hi harming harmed]
      exact State.pin_armSuccess_fresh _ c

/-- Settles O38: every operation that reaches the pin checker judges a sample or makes a final check, and both only add; the two
clearings write every context anew. -/
theorem pinContextsOnlyGrow : Obligations.PinContextsOnlyGrow :=
  ⟨fun _ _ h hpower harm => pinsGrow_step h hpower harm, fun _ _ h hclear c => (pins_fresh_of_clearing h hclear c).spec⟩

end Sys2Proof.Machine

/-! PROOFS. The statement of spec/03_the_landing_window_and_the_grid.md on the mapping of R65: an offset is a two-digit number of scan
cell and step, the scan order saying which digit is the high one, and REVERSED is an involution of the cells. -/

namespace Sys2Proof.Machine

/-! ## Scan cell and step -/

/-- The landing offset of a scan cell at a step: the inverse of `scanOf`. -/
def scanOffset (p : Plan) (C x st : Nat) : Nat :=
  if Plan.cellMajor p then Plan.stepCount p * x + st else C * st + x

theorem scanOf_of_cellMajor {p : Plan} (h : Plan.cellMajor p = true) (C o : Nat) :
    scanOf p C o = (o / Plan.stepCount p, o % Plan.stepCount p) := if_pos h

theorem scanOf_of_stepMajor {p : Plan} (h : ¬ Plan.cellMajor p = true) (C o : Nat) : scanOf p C o = (o % C, o / C) :=
  if_neg h

theorem scanOffset_of_cellMajor {p : Plan} (h : Plan.cellMajor p = true) (C x st : Nat) :
    scanOffset p C x st = Plan.stepCount p * x + st := if_pos h

theorem scanOffset_of_stepMajor {p : Plan} (h : ¬ Plan.cellMajor p = true) (C x st : Nat) :
    scanOffset p C x st = C * st + x := if_neg h

theorem scanOf_lt {p : Plan} {C o : Nat} (ho : o < C * Plan.stepCount p) :
    (scanOf p C o).1 < C ∧ (scanOf p C o).2 < Plan.stepCount p := by
  have hpos : 0 < C * Plan.stepCount p := Nat.zero_lt_of_lt ho
  by_cases h : Plan.cellMajor p = true
  · rw [scanOf_of_cellMajor h]
    exact ⟨Nat.div_lt_of_lt_mul (Nat.mul_comm C _ ▸ ho), Nat.mod_lt _ (Nat.pos_of_mul_pos_left hpos)⟩
  · rw [scanOf_of_stepMajor h]
    exact ⟨Nat.mod_lt _ (Nat.pos_of_mul_pos_right hpos), Nat.div_lt_of_lt_mul ho⟩

/-- Every offset is the offset of its own scan cell and step. -/
theorem scanOffset_scanOf (p : Plan) (C o : Nat) : scanOffset p C (scanOf p C o).1 (scanOf p C o).2 = o := by
  by_cases h : Plan.cellMajor p = true
  · rw [scanOf_of_cellMajor h, scanOffset_of_cellMajor h]
    exact Nat.div_add_mod o _
  · rw [scanOf_of_stepMajor h, scanOffset_of_stepMajor h]
    exact Nat.div_add_mod o C

theorem scanOf_scanOffset {p : Plan} {C x st : Nat} (hx : x < C) (hst : st < Plan.stepCount p) :
    scanOf p C (scanOffset p C x st) = (x, st) := by
  by_cases h : Plan.cellMajor p = true
  · rw [scanOffset_of_cellMajor h, scanOf_of_cellMajor h, Nat.mul_add_div (Nat.zero_lt_of_lt hst), Nat.mul_add_mod,
      Nat.div_eq_of_lt hst, Nat.mod_eq_of_lt hst, Nat.add_zero]
  · rw [scanOffset_of_stepMajor h, scanOf_of_stepMajor h, Nat.mul_add_div (Nat.zero_lt_of_lt hx), Nat.mul_add_mod,
      Nat.div_eq_of_lt hx, Nat.mod_eq_of_lt hx, Nat.add_zero]

theorem scanOffset_lt {p : Plan} {C x st : Nat} (hx : x < C) (hst : st < Plan.stepCount p) :
    scanOffset p C x st < C * Plan.stepCount p := by
  by_cases h : Plan.cellMajor p = true
  · rw [scanOffset_of_cellMajor h]
    exact Nat.mul_add_lt_mul_of_lt_of_lt hx hst
  · rw [scanOffset_of_stepMajor h, Nat.mul_comm C (Plan.stepCount p)]
    exact Nat.mul_add_lt_mul_of_lt_of_lt hst hx

/-- In either scan order the front end sends the steps of one cell in ascending order. -/
theorem scanOffset_le_scanOffset (p : Plan) (C x : Nat) {st st' : Nat} (h : st ≤ st') :
    scanOffset p C x st ≤ scanOffset p C x st' := by
  by_cases hp : Plan.cellMajor p = true
  · simpa only [scanOffset_of_cellMajor hp] using Nat.add_le_add_left h _
  · simpa only [scanOffset_of_stepMajor hp] using Nat.add_le_add_right (Nat.mul_le_mul_left C h) x

/-! ## Tool cell -/

/-- The cell order, from scan cell to tool cell; by `orderCell_orderCell` also the way back. -/
def orderCell (p : Plan) (C x : Nat) : Nat := if Plan.reversed p then C - 1 - x else x

theorem toolOf_eq (p : Plan) (C o : Nat) : toolOf p C o = (orderCell p C (scanOf p C o).1, (scanOf p C o).2) := rfl

theorem orderCell_lt (p : Plan) {C x : Nat} (hx : x < C) : orderCell p C x < C := by
  unfold orderCell
  split <;> omega

theorem orderCell_orderCell (p : Plan) {C x : Nat} (hx : x < C) : orderCell p C (orderCell p C x) = x := by
  unfold orderCell
  split <;> omega

theorem toolOf_lt {p : Plan} {C o : Nat} (ho : o < C * Plan.stepCount p) :
    (toolOf p C o).1 < C ∧ (toolOf p C o).2 < Plan.stepCount p :=
  ⟨orderCell_lt p (scanOf_lt ho).1, (scanOf_lt ho).2⟩

/-- The landing offset of a tool cell at a step: the inverse of `toolOf` on the grid. -/
def toolOffset (p : Plan) (C c st : Nat) : Nat := scanOffset p C (orderCell p C c) st

theorem toolOffset_lt {p : Plan} {C c st : Nat} (hc : c < C) (hst : st < Plan.stepCount p) :
    toolOffset p C c st < C * Plan.stepCount p := scanOffset_lt (orderCell_lt p hc) hst

theorem toolOf_toolOffset {p : Plan} {C c st : Nat} (hc : c < C) (hst : st < Plan.stepCount p) :
    toolOf p C (toolOffset p C c st) = (c, st) := by
  rw [toolOf_eq, toolOffset, scanOf_scanOffset (orderCell_lt p hc) hst, orderCell_orderCell p hc]

theorem toolOffset_toolOf {p : Plan} {C o : Nat} (ho : o < C * Plan.stepCount p) :
    toolOffset p C (toolOf p C o).1 (toolOf p C o).2 = o := by
  rw [toolOf_eq, toolOffset, orderCell_orderCell p (scanOf_lt ho).1, scanOffset_scanOf]

/-- Each pair of tool cell and step is reached by exactly one offset. -/
theorem exists_unique_offset {p : Plan} {C c st : Nat} (hc : c < C) (hst : st < Plan.stepCount p) :
    ∃ o, o < C * Plan.stepCount p ∧ toolOf p C o = (c, st) ∧
      ∀ o', o' < C * Plan.stepCount p → toolOf p C o' = (c, st) → o' = o := by
  refine ⟨toolOffset p C c st, toolOffset_lt hc hst, toolOf_toolOffset hc hst, fun o' ho' h => ?_⟩
  rw [← toolOffset_toolOf ho', h]

/-- Of two samples of one tool cell the later has the greater step: the offset of a cell does not fall as the step grows. -/
theorem toolOf_step_lt {p : Plan} {C o o' : Nat} (hlt : o < o') (ho' : o' < C * Plan.stepCount p)
    (hcell : (toolOf p C o).1 = (toolOf p C o').1) : (toolOf p C o).2 < (toolOf p C o').2 := by
  by_contra hge
  have hle : o' ≤ o := calc
    o' = toolOffset p C (toolOf p C o').1 (toolOf p C o').2 := (toolOffset_toolOf ho').symm
    _ ≤ toolOffset p C (toolOf p C o').1 (toolOf p C o).2 := scanOffset_le_scanOffset p C _ (Nat.le_of_not_lt hge)
    _ = o := by rw [← hcell, toolOffset_toolOf (hlt.trans ho')]
  exact Nat.not_le_of_lt hlt hle

/-- Settles O31: `toolOffset` is the two-sided inverse of `toolOf` on the grid, and for one cell it ascends with the step. -/
theorem offsetToCellAndStep : Obligations.OffsetToCellAndStep := fun _ _ =>
  ⟨fun _ => rfl, fun _ => rfl, fun _ ho => ⟨(scanOf_lt ho).1, toolOf_lt ho⟩,
    fun _ _ hc hst => exists_unique_offset hc hst, fun _ _ hlt ho' hcell => toolOf_step_lt hlt ho' hcell⟩

end Sys2Proof.Machine

/-! PROOFS. The statements of spec/06_halt_rdy_and_events.md on HALT (R130), on HALT_CLEAR and the force commands (R131, R132), and on
the event acknowledge and enable words (R136, R137). A one-beat write of the command, the acknowledge or the enable word at a serving
port S is always taken and acts by its one beat; what remains is what that word does to the state. -/

namespace Sys2Proof.Machine

/-! ## HALT and RDY as functions of the state -/

theorem State.haltLine_iff (s : State) :
    s.haltLine = true ↔ s.lines.force = .forcedOn ∨ (s.lines.haltLatch = true ∧ s.lines.force ≠ .forcedOff) := by
  cases hforce : s.lines.force <;> simp [State.haltLine, hforce]

theorem State.haltLine_congr {s t : State} (hlatch : t.lines.haltLatch = s.lines.haltLatch)
    (hforce : t.lines.force = s.lines.force) : t.haltLine = s.haltLine := by
  rw [Bool.eq_iff_iff, State.haltLine_iff, State.haltLine_iff, hlatch, hforce]

theorem State.rdyLine_congr {s t : State} (hstroke : t.stroke = s.stroke) (hlines : t.lines = s.lines) :
    t.rdyLine = s.rdyLine := by
  rw [State.rdyLine, State.rdyLine, hstroke, State.haltLine_congr (congrArg _ hlines) (congrArg _ hlines)]

theorem State.rdyLine_of_idle {s : State} (h : s.stroke.state = .idle) : s.rdyLine = false := by
  simp [State.rdyLine, h]

/-! ## The resets, at the lines -/

/-- Of the line and event unit a warm reset clears the flags alone; the level of RESET_N is the outside's (R107, R140). -/
theorem execWarmReset_lines {s t : State} (h : execWarmReset s = .next t) :
    t.lines.haltLatch = s.lines.haltLatch ∧ t.lines.force = s.lines.force ∧ t.lines.enables = s.lines.enables := by
  obtain rfl := Host.Outcome.next.inj h
  split <;> exact ⟨rfl, rfl, rfl⟩

/-- Of the line and event unit power-on reset keeps only the levels of the two input lines (R156). -/
theorem execPowerOnReset_lines {b : Fin 8} {k : Fin 4} {s t : State} (h : execPowerOnReset b k s = .next t) :
    t.lines = { State.reset.lines with pressAbort := s.lines.pressAbort, resetN := s.lines.resetN } := by
  obtain rfl := Host.Outcome.next.inj h
  rfl

/-- Settles O7: HALT reads the halt latch and the force state alone; power-on reset clears both and a warm reset keeps both. -/
theorem haltLineFollowsLatchAndForce : Obligations.HaltLineFollowsLatchAndForce := by
  refine ⟨State.haltLine_iff, fun _ _ _ _ => State.haltLine_congr, fun b k s t h => ?_, fun s t h => ?_⟩
  · simp [State.haltLine, execPowerOnReset_lines h, State.reset]
  · obtain ⟨hlatch, hforce, -⟩ := execWarmReset_lines h
    exact State.haltLine_congr hlatch hforce

/-! ## The words of the command area that are always taken -/

/-- No freeze flag, status block or protection word lies at the command, acknowledge and enable words (R161). -/
theorem dropsBeat_commandArea (s : State) {off : Nat} (b : Beat) (hlow : Config.commandOffset ≤ off)
    (hhigh : off < Config.protectionOffset) : s.dropsBeat (off, b) = false := by
  simp only [Config.commandOffset, Config.protectionOffset] at hlow hhigh
  have hfrozen : s.frozenAt off = false := by
    rw [State.frozenAt, if_neg (by omega), if_neg (by omega), if_neg (by omega)]
  have hstatus : ¬ Config.statusOffset ≤ off := by simp only [Config.statusOffset]; omega
  have hprotection : off ≠ Config.protectionOffset := by simp only [Config.protectionOffset]; omega
  simp [State.dropsBeat, hfrozen, hstatus, hprotection]

theorem State.controlBeat_command (s : State) (b : Beat) : s.controlBeat (0x2420, b) = s.command b := by
  simp [State.controlBeat, Config.commandOffset]

theorem State.controlBeat_acknowledge (s : State) (b : Beat) : s.controlBeat (0x2424, b) = s.acknowledge b := by
  simp [State.controlBeat, Config.commandOffset, Config.acknowledgeOffset]

theorem State.controlBeat_enable (s : State) (b : Beat) : s.controlBeat (0x2428, b) = s.enableEvents b := by
  simp [State.controlBeat, Config.commandOffset, Config.acknowledgeOffset, Config.enableOffset]

/-- A one-beat write of the command, acknowledge or enable word at a serving port S acts and is forwarded. -/
theorem exec_commandArea {c : Instr} {s : State} {off : Nat} {b : Beat}
    (hc : requestOf c = some (.s, .write (s.oneBeat off b))) (hs : s.serves) (hlow : Config.commandOffset ≤ off)
    (hhigh : off < Config.protectionOffset) (h4 : off % 4 = 0) :
    exec c s = .next ((s.controlBeat (off, b)).forward .s (.write (s.oneBeat off b))) := by
  have hdrop := dropsBeat_commandArea s b hlow hhigh
  simp only [Config.commandOffset, Config.protectionOffset] at hlow hhigh
  have hgo : off ≠ Config.goOffset := by simp only [Config.goOffset]; omega
  rw [exec_oneBeat hc hs (by omega) h4 hdrop (by simp [armsAt, hgo]),
    takeControl_single s off b (by simp only [Config.recipeBytes]; omega)]

/-! ## The command word -/

theorem State.command_eq_recorded (s : State) (b : Beat) :
    s.command b = (s.ownerActs b).1.recorded (commandCode b) (s.ownerActs b).2 := rfl

theorem commandCode_fullBeat (w : Word) : commandCode (fullBeat w) = w := by
  have hmask : enableMask 0xF#4 = BitVec.allOnes 32 := by decide
  rw [commandCode, fullBeat, hmask, BitVec.and_allOnes]

/-- A command written in one whole beat: its owner acts, and the code and the owner's result are recorded (R144). -/
theorem exec_command {c : Instr} {s : State} {code : Word}
    (hc : requestOf c = some (.s, .write (s.oneBeat 0x2420 (fullBeat code)))) (hs : s.serves) :
    exec c s = .next ((((s.ownerActs (fullBeat code)).1).recorded code (s.ownerActs (fullBeat code)).2).forward .s
      (.write (s.oneBeat 0x2420 (fullBeat code)))) := by
  rw [exec_commandArea hc hs (by decide) (by decide) (by decide), State.controlBeat_command, State.command_eq_recorded,
    commandCode_fullBeat]

/-- Recording a command marks the status block dirty, so the mark of a changed latch adds nothing. -/
theorem State.recorded_setHaltLatch (s : State) (v : Bool) (code : Word) (r : CommandResult) :
    (s.setHaltLatch v).recorded code r = ({ s with lines := { s.lines with haltLatch := v } }).recorded code r := by
  rw [State.setHaltLatch, State.dirtyIf_eq]
  rfl

theorem State.recorded_setForce (s : State) (v : ForceState) (code : Word) (r : CommandResult) :
    (s.setForce v).recorded code r = ({ s with lines := { s.lines with force := v } }).recorded code r := by
  rw [State.setForce, State.dirtyIf_eq]
  rfl

/-! ### HALT_CLEAR -/

theorem exec_haltClear_of_idle {s : State} (hs : s.serves) (hidle : s.stroke.state = .idle) :
    exec (.haltClear (s.oneBeat 0x2420 (fullBeat 2))) s =
      .next ((({ s with lines := { s.lines with haltLatch := false } }).recorded 2 .done).forward .s
        (.write (s.oneBeat 0x2420 (fullBeat 2)))) := by
  have hact : s.ownerActs (fullBeat 2) = (s.setHaltLatch false, .done) := if_pos hidle
  rw [exec_command rfl hs, hact, State.recorded_setHaltLatch]

theorem exec_haltClear_of_not_idle {s : State} (hs : s.serves) (hbusy : s.stroke.state ≠ .idle) :
    exec (.haltClear (s.oneBeat 0x2420 (fullBeat 2))) s =
      .next ((s.recorded 2 .busy).forward .s (.write (s.oneBeat 0x2420 (fullBeat 2)))) := by
  have hact : s.ownerActs (fullBeat 2) = (s, .busy) := if_neg hbusy
  rw [exec_command rfl hs, hact]

/-- The lines after HALT_CLEAR: cleared with no force in effect HALT falls, and RDY is asserted in no case (R131). -/
theorem lines_after_haltClear {s t : State} (hs : s.serves)
    (h : exec (.haltClear (s.oneBeat 0x2420 (fullBeat 2))) s = .next t) :
    (s.stroke.state = .idle → s.lines.force = .none → t.haltLine = false) ∧ (t.rdyLine = true → s.rdyLine = true) := by
  by_cases hidle : s.stroke.state = .idle
  · obtain rfl := Host.Outcome.next.inj ((exec_haltClear_of_idle hs hidle).symm.trans h)
    refine ⟨fun _ hforce => ?_, fun hrdy => ?_⟩
    · simp [State.haltLine, State.recorded, hforce]
    · rw [State.rdyLine_of_idle (by simpa [State.recorded] using hidle)] at hrdy
      exact absurd hrdy Bool.false_ne_true
  · obtain rfl := Host.Outcome.next.inj ((exec_haltClear_of_not_idle hs hidle).symm.trans h)
    refine ⟨fun hi => absurd hi hidle, fun hrdy => ?_⟩
    exact (State.rdyLine_congr (s := s) rfl rfl).symm.trans hrdy

/-! ### The force commands -/

theorem exec_forceHaltOn {s : State} (hs : s.serves) :
    exec (.forceHaltOn (s.oneBeat 0x2420 (fullBeat 3))) s =
      .next ((({ s with lines := { s.lines with force := .forcedOn } }).recorded 3 .done).forward .s
        (.write (s.oneBeat 0x2420 (fullBeat 3)))) := by
  have hact : s.ownerActs (fullBeat 3) = (s.setForce .forcedOn, .done) := rfl
  rw [exec_command rfl hs, hact, State.recorded_setForce]

theorem exec_forceHaltOff {s : State} (hs : s.serves) (henforce : s.enforce = false) :
    exec (.forceHaltOff (s.oneBeat 0x2420 (fullBeat 4))) s =
      .next ((({ s with lines := { s.lines with force := .forcedOff } }).recorded 4 .done).forward .s
        (.write (s.oneBeat 0x2420 (fullBeat 4)))) := by
  have hact : s.ownerActs (fullBeat 4) = (s.setForce .forcedOff, .done) := if_neg ((Bool.not_eq_true _).mpr henforce)
  rw [exec_command rfl hs, hact, State.recorded_setForce]

/-- While ENFORCE is set FORCE_HALT_0x2428 changes no line (R132). -/
theorem exec_forceHaltOff_of_enforce {s : State} (hs : s.serves) (henforce : s.enforce = true) :
    exec (.forceHaltOff (s.oneBeat 0x2420 (fullBeat 4))) s =
      .next ((s.recorded 4 .prot).forward .s (.write (s.oneBeat 0x2420 (fullBeat 4)))) := by
  have hact : s.ownerActs (fullBeat 4) = (s, .prot) := if_pos henforce
  rw [exec_command rfl hs, hact]

theorem exec_forceRelease {s : State} (hs : s.serves) :
    exec (.forceRelease (s.oneBeat 0x2420 (fullBeat 5))) s =
      .next ((({ s with lines := { s.lines with force := .none } }).recorded 5 .done).forward .s
        (.write (s.oneBeat 0x2420 (fullBeat 5)))) := by
  have hact : s.ownerActs (fullBeat 5) = (s.setForce .none, .done) := rfl
  rw [exec_command rfl hs, hact, State.recorded_setForce]

/-- Settles O14: each command is taken and recorded, its owner acting by the stroke state or by ENFORCE. -/
theorem haltClearAndForceCommands : Obligations.HaltClearAndForceCommands :=
  ⟨fun _ hs => ⟨exec_haltClear_of_idle hs, exec_haltClear_of_not_idle hs, fun _ => lines_after_haltClear hs⟩,
    fun _ hs => ⟨exec_forceHaltOn hs, exec_forceHaltOff hs, exec_forceHaltOff_of_enforce hs, exec_forceRelease hs⟩⟩

/-! ## The event words -/

/-- A bit of a beat lies in an enabled byte exactly when the enable of that byte is set (R145). -/
theorem getLsbD_enableMask (e : BitVec 4) (i : Fin 32) : (enableMask e).getLsbD i = e.getLsbD (i / 8) := by
  revert e i
  decide

theorem EventFlag.bit_lt (f : EventFlag) : f.bit < 9 := by
  cases f <;> decide

theorem getLsbD_flagBytes (b : Beat) (f : EventFlag) : (flagBytes b).getLsbD f.bit = b.enable.getLsbD (f.bit / 8) := by
  have hbit := f.bit_lt
  simp [flagBytes, hbit, getLsbD_enableMask b.enable ⟨f.bit, by omega⟩]

theorem getLsbD_flagBits (b : Beat) (f : EventFlag) :
    (flagBits b).getLsbD f.bit = (b.data.getLsbD f.bit && b.enable.getLsbD (f.bit / 8)) := by
  have hbit := f.bit_lt
  simp [flagBits, hbit, getLsbD_enableMask b.enable ⟨f.bit, by omega⟩]

/-- An enable in an enabled byte takes the written bit, any other stays (R137). -/
theorem State.enableEvents_getLsbD (s : State) (b : Beat) (f : EventFlag) :
    (s.enableEvents b).lines.enables.getLsbD f.bit =
      if b.enable.getLsbD (f.bit / 8) then b.data.getLsbD f.bit else s.lines.enables.getLsbD f.bit := by
  simp only [State.enableEvents, State.dirtyIf_eq, BitVec.getLsbD_or, BitVec.getLsbD_and, BitVec.getLsbD_not, f.bit_lt,
    getLsbD_flagBits, getLsbD_flagBytes]
  cases b.enable.getLsbD (f.bit / 8) <;> simp

/-- A flag with its bit written 1 in an enabled byte is cleared, any other stays (R136). -/
theorem State.acknowledge_flagSet (s : State) (b : Beat) (f : EventFlag) :
    (s.acknowledge b).flagSet f = (s.flagSet f && !(b.data.getLsbD f.bit && b.enable.getLsbD (f.bit / 8))) := by
  simp only [State.acknowledge, State.flagSet, State.dirtyIf_eq, BitVec.getLsbD_and, BitVec.getLsbD_not, f.bit_lt,
    getLsbD_flagBits, decide_true, Bool.true_and]

/-- The enable word writes the enables and the mark of a change, and nothing else. -/
theorem State.enableEvents_eq (s : State) (b : Beat) :
    s.enableEvents b = { s with
      lines := { s.lines with enables := (s.enableEvents b).lines.enables }
      writer := { s.writer with
        dirty := s.writer.dirty || (s.enableEvents b).lines.enables != s.lines.enables } } := by
  simp only [State.enableEvents, State.dirtyIf_eq]

/-- The acknowledge word writes the flags and the mark of a change, and nothing else. -/
theorem State.acknowledge_eq (s : State) (b : Beat) :
    s.acknowledge b = { s with
      lines := { s.lines with flags := (s.acknowledge b).lines.flags }
      writer := { s.writer with dirty := s.writer.dirty || (s.acknowledge b).lines.flags != s.lines.flags } } := by
  simp only [State.acknowledge, State.dirtyIf_eq]

theorem exec_eventEnable {s : State} (b : Beat) (hs : s.serves) :
    exec (.eventEnable (s.oneBeat 0x2428 b)) s =
      .next ((s.enableEvents b).forward .s (.write (s.oneBeat 0x2428 b))) := by
  rw [exec_commandArea rfl hs (by decide) (by decide) (by decide), State.controlBeat_enable]

theorem exec_eventAcknowledge {s : State} (b : Beat) (hs : s.serves) :
    exec (.eventAcknowledge (s.oneBeat 0x2424 b)) s =
      .next ((s.acknowledge b).forward .s (.write (s.oneBeat 0x2424 b))) := by
  rw [exec_commandArea rfl hs (by decide) (by decide) (by decide), State.controlBeat_acknowledge]

/-- Settles O18: both words act bit by bit within the enabled bytes; the resets clear and keep the enables with the rest of the unit. -/
theorem eventWords : Obligations.EventWords := by
  refine ⟨⟨fun s b hs => ?_, fun b k s t h => ?_, fun s t h => ?_⟩, fun s b hs => ?_⟩
  · refine ⟨_, exec_eventEnable b hs, fun f => ?_, ?_⟩
    · simpa using s.enableEvents_getLsbD b f
    · simpa using congrArg (State.forward · .s (.write (s.oneBeat 0x2428 b))) (s.enableEvents_eq b)
  · simp [execPowerOnReset_lines h, State.reset]
  · obtain ⟨-, -, henables⟩ := execWarmReset_lines h
    exact henables
  · refine ⟨_, exec_eventAcknowledge b hs, fun f => ?_, ?_⟩
    · simpa [State.flagSet] using s.acknowledge_flagSet b f
    · simpa using congrArg (State.forward · .s (.write (s.oneBeat 0x2424 b))) (s.acknowledge_eq b)

end Sys2Proof.Machine

/-! PROOFS. What every step keeps, said once: a property that the elementary events of the part keep is kept by every step. -/

namespace Sys2Proof.Machine

/-! ## A property that every event keeps -/

/-- The events of the part keep a property `P`. `ok` is what `P` knows of the requests that wait. The two resets and the answer to a
grid write are no fields: `StepKeeps.exec` takes them as hypotheses, since some properties hold through neither. -/
structure StepKeeps (P : State → Prop) (ok : Request → Prop) : Prop where
  ok_of_wellFormed : ∀ {r}, r.wellFormed = true → ok r
  ok_of_waiting : ∀ {s p r c}, P s → (s.port p).status = .waiting r c → ok r
  setPort : ∀ {s p np}, P s → (∀ r c, np.status = .waiting r c → ok r) → P (s.setPort p np)
  resetLine : ∀ {s v}, P s → P { s with lines := { s.lines with resetN := v } }
  pressLine : ∀ {s v}, P s → P { s with lines := { s.lines with pressAbort := v } }
  withPending : ∀ {s q}, P s → P (s.withPending q)
  prescaler : ∀ {s n}, P s → P { s with prescaler := n }
  countDown : ∀ {s}, P s → P { s with stroke := { s.stroke with
    armTimer := countDown s.stroke.armTimer, stallTimer := countDown s.stroke.stallTimer } }
  refuseWrite : ∀ {s f a}, P s → P (s.refuseWrite f a)
  writeRecipe : ∀ {s w}, P s → s.stroke.state ≠ .loading → ok (.write w) → s.inRegion w.addr.toNat = true →
    w.addr.toNat - s.regionBase < Config.recipeBytes → P (s.writeRecipe (w.addr.toNat - s.regionBase) w.beats)
  controlBeat : ∀ {s ob}, P s → s.stroke.state ≠ .loading → P (s.controlBeat ob)
  takeLanding : ∀ {s p w}, P s → s.landingAccepted p w = true → s.roomFor w.beats.length = true → P (s.takeLanding p w)
  armingCheck : ∀ {s}, P s → s.stroke.state = .arming → P s.armingCheck
  armingEnd : ∀ {s}, P s → s.stroke.state = .arming → P s.armingEnd
  abandonArming : ∀ {s}, P s → s.stroke.state = .arming → P s.abandonArming
  endStroke : ∀ {s o}, P s → s.stroke.state = .armed ∨ s.stroke.state = .acquiring → P (s.endStroke o)
  walkStep : ∀ {s}, P s → s.stroke.state = .closing → s.walker.state = .walking → P s.walkStep
  grant : ∀ {s}, P s → P s.grant
  headIssued : ∀ {s}, P s → P s.headIssued
  freeHead : ∀ {s e es a okay adv}, P s → s.writer.queue = e :: es → e.record.isStroke = false → P (s.freeHead a okay adv)
  completionFlags : ∀ {s r okay b}, P s → P ((s.completionFlags r okay).notice b)
  completeStroke : ∀ {s e es a okay adv first}, P s → s.writer.queue = e :: es → e.record.isStroke = true →
    P (s.completeRecord a okay adv first)
  popAnswered : ∀ {s t ts}, P s → s.arbiter.inflight = t :: ts → t.kind.isLoad = false → P s.popAnswered
  completeStatus : ∀ {s okay}, P s → P (s.completeStatus okay)
  loadAnswer : ∀ {s t ts line okay data}, P s → s.arbiter.inflight = t :: ts → t.kind = .loadRead line →
    P (s.popAnswered.loadAnswer line okay data)

/-! ### The stroke state: LOADING is entered by power-on reset alone -/

theorem State.enterIdle_not_loading (s : State) : s.enterIdle.stroke.state ≠ .loading := by
  rw [State.enterIdle_stroke]
  split <;> simp

theorem State.abandonArming_not_loading (s : State) : s.abandonArming.stroke.state ≠ .loading :=
  State.enterIdle_not_loading _

theorem State.notice_not_loading {s : State} (h : s.stroke.state ≠ .loading) (b : BitVec 9) :
    (s.notice b).stroke.state ≠ .loading := by
  unfold State.notice
  split
  · exact s.abandonArming_not_loading
  · exact h

theorem State.raise_not_loading {s : State} (h : s.stroke.state ≠ .loading) (f : EventFlag) :
    (s.raise f).stroke.state ≠ .loading := State.notice_not_loading (by simpa using h) _

theorem State.endStroke_not_loading (s : State) (o : StrokeOutcome) : (s.endStroke o).stroke.state ≠ .loading := by
  obtain ⟨st, hst, he⟩ := s.endStroke_stroke o
  rw [he]
  rcases hst with rfl | rfl <;> simp

theorem State.cutClosing_not_loading (s : State) (o : StrokeOutcome) : (s.cutClosing o).stroke.state ≠ .loading := by
  simp [State.cutClosing, State.queueStrokeVerdict_stroke]

theorem State.queueRefusal_state (s : State) (r : RefusalRecord) : (s.queueRefusal r).stroke.state = s.stroke.state := by
  rw [State.queueRefusal_stroke]

theorem State.discardPending_state (s : State) : s.discardPending.stroke.state = s.stroke.state := by
  unfold State.discardPending
  split
  · rfl
  · simp [State.queueRefusal_state]

theorem State.abort_not_loading {s : State} (h : s.stroke.state ≠ .loading) : s.abort.1.stroke.state ≠ .loading := by
  unfold State.abort
  split
  · exact h
  · exact h
  · simp
  · rw [State.discardPending_state]; exact s.endStroke_not_loading _
  · rw [State.discardPending_state]; exact s.endStroke_not_loading _
  · rw [State.discardPending_state]; exact s.cutClosing_not_loading _
  · rw [State.discardPending_state]; simpa using h

theorem State.pendPlan_not_loading {s : State} (h : s.stroke.state ≠ .loading) : s.pendPlan.stroke.state ≠ .loading := by
  unfold State.pendPlan
  dsimp only
  split
  · exact h
  · exact State.notice_not_loading (by rw [State.queueRefusal_state]; exact h) _

theorem State.armRequest_not_loading {s : State} (h : s.stroke.state ≠ .loading) :
    s.armRequest.stroke.state ≠ .loading := by
  unfold State.armRequest
  split
  · exact h
  · simp
  all_goals exact State.pendPlan_not_loading h

theorem State.ownerActs_not_loading {s : State} (h : s.stroke.state ≠ .loading) (b : Beat) :
    (s.ownerActs b).1.stroke.state ≠ .loading := by
  unfold State.ownerActs
  split
  · split
    · exact State.abort_not_loading h
    all_goals simpa using h
  · exact h

/-- No beat of the command area goes back to LOADING. -/
theorem State.controlBeat_not_loading {s : State} (h : s.stroke.state ≠ .loading) (ob : Nat × Beat) :
    (s.controlBeat ob).stroke.state ≠ .loading := by
  unfold State.controlBeat
  dsimp only
  split
  · split
    · exact State.armRequest_not_loading (by simpa using h)
    · simpa using h
  · split
    · exact State.ownerActs_not_loading h ob.2
    · split
      · simpa using h
      · split
        · simpa using h
        · split
          · simpa using h
          · split
            · unfold State.writeConsumer
              dsimp only
              split
              · simpa using h
              · exact State.raise_not_loading h _
            · exact h

/-- The transaction that an answer row answers is the oldest one outstanding, of the row's kind (R192). -/
theorem State.oldest_eq_some {s : State} {p : TransactionKind → Bool} {x : Transaction} (h : s.oldest p = some x) :
    ∃ rest, s.arbiter.inflight = x :: rest ∧ p x.kind = true := by
  unfold State.oldest at h
  split at h
  · cases h
  · next t rest hq =>
    split at h
    · next hp =>
      obtain rfl := Option.some.inj h
      exact ⟨rest, hq, hp⟩
    · cases h

namespace StepKeeps

variable {P : State → Prop} {ok : Request → Prop} (K : StepKeeps P ok) {s : State}

include K

/-! ### Requests -/

theorem holdOff (h : P s) (p : PortId) (l : List Request) : P (s.setPort p { s.port p with heldOff := l }) :=
  K.setPort h fun _ _ hw => K.ok_of_waiting h hw

theorem answer (h : P s) (p : PortId) (x : Answer) : P (s.answer p x) := K.setPort h nofun

theorem freePort (h : P s) (p : PortId) : P (s.freePort p) := K.setPort h nofun

theorem forward (h : P s) (p : PortId) (r : Request) : P (s.forward p r) := K.setPort h nofun

theorem waitAt (h : P s) (p : PortId) {r : Request} (hr : ok r) (c : WaitCause) : P (s.waitAt p r c) := by
  refine K.setPort h fun r' c' hw => ?_
  obtain ⟨rfl, -⟩ := PortStatus.waiting.inj hw
  exact hr

theorem controlBeats (h : P s) (hl : s.stroke.state ≠ .loading) (l : List (Nat × Beat)) : P (s.controlBeats l) := by
  induction l generalizing s with
  | nil => exact h
  | cons ob l ih => exact ih (K.controlBeat h hl) (State.controlBeat_not_loading hl ob)

theorem controlWrite (h : P s) (p : PortId) {w : Write} (hw : ok (.write w)) (hr : s.inRegion w.addr.toNat = true)
    (hl : s.stroke.state ≠ .loading) : P (s.controlWrite p w) := by
  unfold State.controlWrite
  dsimp only
  split
  · exact K.answer (K.refuseWrite h) p _
  · split
    · exact K.waitAt h p hw _
    · refine K.forward ?_ p _
      unfold State.takeControl
      split
      · next hoff => exact K.writeRecipe h hl hw hr hoff
      · exact K.controlBeats h hl _

theorem landing (h : P s) (p : PortId) {w : Write} (hw : ok (.write w)) : P (s.landing p w) := by
  unfold State.landing
  split
  · next ha =>
    split
    · next hroom => exact K.takeLanding h ha hroom
    · exact K.waitAt h p hw _
  · exact K.refuseWrite (K.answer h p _)

theorem passThrough (h : P s) (p : PortId) {r : Request} (hr : ok r) : P (s.passThrough p r) := by
  unfold State.passThrough
  split
  · exact K.waitAt h p hr _
  · exact K.forward h p r

theorem classify (h : P s) (p : PortId) {r : Request} (hr : ok r) : P (s.classify p r) := by
  unfold State.classify
  split
  · next hin =>
    split
    · exact K.waitAt h p hr _
    · next hl =>
      cases r with
      | write w => exact K.controlWrite h p hr hin hl
      | read a n => exact K.forward h p _
  · cases r with
    | write w =>
      dsimp only
      split
      · exact K.landing h p hr
      · exact K.passThrough h p hr
    | read a n => exact K.passThrough h p hr

theorem handle (h : P s) (p : PortId) (r : Request) : P (s.handle p r) := by
  unfold State.handle
  split
  · next hw => exact K.classify h p (K.ok_of_wellFormed hw)
  · exact K.answer h p _

theorem releaseHeld (h : P s) (p : PortId) : P (s.releaseHeld p) := by
  unfold State.releaseHeld
  split
  · split
    · exact h
    · exact K.handle (K.holdOff h p _) p _
  · exact h

theorem presentRequest (h : P s) (p : PortId) (r : Request) : P (s.presentRequest p r) :=
  K.releaseHeld (K.holdOff h p _) p

/-! ### Ends of a wait -/

theorem endWait (h : P s) (p : PortId) (c : WaitCause) : P (s.endWait p c) := by
  unfold State.endWait
  split
  · exact h
  · next r hr =>
    split
    · refine K.classify (K.freePort h p) p ?_
      unfold State.waitingFor at hr
      split at hr
      · next hs =>
        split at hr
        · exact K.ok_of_waiting h (Option.some.inj hr ▸ hs)
        · cases hr
      all_goals cases hr
    · exact h

theorem endQueueWaits (h : P s) : P s.endQueueWaits :=
  K.endWait (K.endWait (K.endWait (K.endWait h .a _) .a _) .s _) .s _

/-! ### Events of the part's own -/

theorem endReset (h : P s) (first : PortId) : P (s.endReset first) :=
  K.releaseHeld (K.releaseHeld (K.resetLine h) first) _

theorem armExpiry (h : P s) : P s.armExpiry := by
  unfold State.armExpiry
  split
  · next hs => exact K.endStroke h (.inl hs.1)
  · exact h

theorem stallExpiry (h : P s) : P s.stallExpiry := by
  unfold State.stallExpiry
  split
  · next hs => exact K.endStroke h (.inr hs.1)
  · exact h

theorem pressAsserted (h : P s) : P s.pressAsserted := by
  unfold State.pressAsserted
  split
  · next hs => exact K.abandonArming h hs
  · next hs => exact K.endStroke h (.inl hs)
  · next hs => exact K.endStroke h (.inr hs)
  all_goals exact h

theorem pressLevel (h : P s) (v : Bool) : P (s.pressLevel v) := by
  unfold State.pressLevel
  dsimp only
  split
  · exact K.pressAsserted (K.pressLine h)
  · exact K.pressLine h

theorem clock (h : P s) : P s.clock := by
  unfold State.clock State.timebase
  dsimp only
  split
  · exact K.prescaler h
  · have hc := K.countDown (K.prescaler (n := 0) h)
    split
    · exact K.armExpiry hc
    · split
      · exact K.stallExpiry hc
      · exact hc

theorem idleStep (h : P s) : P s.idleStep := by
  unfold State.idleStep
  split
  · exact K.releaseHeld h .a
  · split
    · exact K.releaseHeld h .s
    · exact K.clock h

/-! ### Answers of memory -/

/-- The completion of a record that is no STROKE_VERDICT: its entry is freed, the flags are raised, and a REFUSAL's entry may be
taken by the arming request that waits for it, in either order. -/
theorem completeRecord (h : P s) (a : Word) (okay adv first : Bool) : P (s.completeRecord a okay adv first) := by
  cases hq : s.writer.queue with
  | nil => rw [State.completeRecord, hq]; exact h
  | cons e es =>
    cases hs : e.record.isStroke with
    | true => exact K.completeStroke h hq hs
    | false =>
      have after : ∀ {u : State}, P u → P (u.afterRecord e.record) := by
        intro u hu
        have he : u.endReporting e.record = u := by simp [State.endReporting, hs]
        unfold State.afterRecord
        rw [he]
        split
        · exact K.endWait hu _ _
        · exact hu
      have hf := K.freeHead (a := a) (okay := okay) (adv := adv) h hq hs
      rw [State.completeRecord, hq]
      dsimp only
      split
      · exact after (K.completionFlags hf)
      · exact K.completionFlags (after hf)

theorem execRecordToControlRegion {t : State} {first : Bool} (h : P s) (he : execRecordToControlRegion first s = .next t) :
    P t := by
  obtain rfl := Host.Outcome.next.inj he
  split
  · exact K.completeRecord (K.headIssued h) _ _ _ _
  · exact h

theorem execPassThroughAnswer {t : State} {okay : Bool} {data : LineData} (h : P s)
    (he : execPassThroughAnswer okay data s = .next t) : P t := by
  obtain rfl := Host.Outcome.next.inj he
  split
  · exact h
  · next x hx =>
    obtain ⟨rest, hq, hk⟩ := State.oldest_eq_some hx
    split
    · next p hp =>
      have hpop : P s.popAnswered := K.popAnswered h hq (by rw [hp]; rfl)
      unfold State.answerPass
      split
      · exact K.answer hpop p _
      · exact K.freePort hpop p
      · exact hpop
      · exact hpop
    all_goals exact h

theorem execRecordWriteComplete {t : State} {okay first : Bool} (h : P s)
    (he : execRecordWriteComplete okay first s = .next t) : P t := by
  obtain rfl := Host.Outcome.next.inj he
  split
  · exact h
  · next x hx =>
    obtain ⟨rest, hq, hk⟩ := State.oldest_eq_some hx
    have hpop : P s.popAnswered := K.popAnswered h hq (by rw [beq_iff_eq.mp hk]; rfl)
    split
    · exact hpop
    · exact K.completeRecord hpop _ _ _ _

theorem execStatusWriteComplete {t : State} {okay : Bool} (h : P s)
    (he : execStatusWriteComplete okay s = .next t) : P t := by
  obtain rfl := Host.Outcome.next.inj he
  split
  · exact h
  · next x hx =>
    obtain ⟨rest, hq, hk⟩ := State.oldest_eq_some hx
    have hpop : P s.popAnswered := K.popAnswered h hq (by rw [beq_iff_eq.mp hk]; rfl)
    split
    · exact hpop
    · exact K.completeStatus hpop

theorem execLoadReadAnswer {t : State} {okay : Bool} {data : LineData} (h : P s)
    (he : execLoadReadAnswer okay data s = .next t) : P t := by
  obtain rfl := Host.Outcome.next.inj he
  split
  · exact h
  · next x hx =>
    obtain ⟨rest, hq, hk⟩ := State.oldest_eq_some hx
    split
    · next line hl => exact K.loadAnswer h hq hl
    all_goals exact h

theorem execGridWriteAnswer {t : State} {okay : Bool} (h : P s) (hbeat : ∀ x rest, s.arbiter.inflight = x :: rest →
      x.kind = .remapBeat → x.discard = false → P (s.popAnswered.beatAnswered okay))
    (he : execGridWriteAnswer okay s = .next t) : P t := by
  obtain rfl := Host.Outcome.next.inj he
  split
  · exact h
  · next x hx =>
    obtain ⟨rest, hq, hk⟩ := State.oldest_eq_some hx
    rw [beq_iff_eq] at hk
    split
    · exact K.popAnswered h hq (by rw [hk]; rfl)
    · next hd => exact K.endQueueWaits (hbeat x rest hq hk (by simpa using hd))

/-! ### Every command and every step -/

/-- A command keeps the property, where the two resets and the answer to a grid write do. -/
theorem exec {c : Instr} {t : State} (h : P s) (hpower : ∀ b k, c = .powerOnReset b k → P (s.powerOn b k))
    (hwarm : c = .warmReset → s.lines.resetN = false → P s.warmReset)
    (hgrid : ∀ okay x rest, c = .gridWriteAnswer okay → s.arbiter.inflight = x :: rest → x.kind = .remapBeat →
      x.discard = false → P (s.popAnswered.beatAnswered okay))
    (he : exec c s = .next t) : P t := by
  cases hr : requestOf c with
  | some pr =>
    obtain rfl := Host.Outcome.next.inj ((exec_requestOf s hr).symm.trans he)
    exact K.presentRequest h _ _
  | none =>
    cases c
    case gridWriteAnswer okay => exact K.execGridWriteAnswer h (hgrid okay · · rfl) he
    case recordToControlRegion first => exact K.execRecordToControlRegion h he
    case recordWriteComplete okay first => exact K.execRecordWriteComplete h he
    case statusWriteComplete okay => exact K.execStatusWriteComplete h he
    case passThroughAnswer okay data => exact K.execPassThroughAnswer h he
    case loadReadAnswer okay data => exact K.execLoadReadAnswer h he
    case powerOnReset b k =>
      obtain rfl := Host.Outcome.next.inj he
      exact hpower b k rfl
    case warmReset =>
      obtain rfl := Host.Outcome.next.inj he
      split
      · exact h
      · next hn => exact hwarm rfl (by simpa using hn)
    case armingCheck =>
      obtain rfl := Host.Outcome.next.inj he
      split
      · next hs => exact K.armingCheck h hs.1
      · exact h
    case armingWalkEnd =>
      obtain rfl := Host.Outcome.next.inj he
      split
      · next hs => exact K.armingEnd h hs.1
      · exact h
    case closingWalkStep =>
      obtain rfl := Host.Outcome.next.inj he
      split
      · next hs => exact K.walkStep h hs.1 hs.2
      · exact h
    case resetNDeasserted first =>
      obtain rfl := Host.Outcome.next.inj he
      split
      · exact K.endReset h first
      · exact h
    case waitingLandingWriteTaken | hazardWaitEnd | loadingWaitEnd | armWaitEnd =>
      obtain rfl := Host.Outcome.next.inj he
      exact K.endWait h _ _
    case pressAbort v =>
      obtain rfl := Host.Outcome.next.inj he
      exact K.pressLevel h v
    case armExpiry =>
      obtain rfl := Host.Outcome.next.inj he
      exact K.armExpiry h
    case stallExpiry =>
      obtain rfl := Host.Outcome.next.inj he
      exact K.stallExpiry h
    case memoryGrant =>
      obtain rfl := Host.Outcome.next.inj he
      exact K.grant h
    all_goals exact absurd hr (by simp [requestOf])

/-- Every step keeps a property that the two resets and the answer to a grid write keep as well. -/
theorem step {t : State} (hpower : ∀ {s} b k, P s → P (s.powerOn b k)) (hwarm : ∀ {s}, P s → P s.warmReset)
    (hgrid : ∀ {s x rest} okay, P s → s.arbiter.inflight = x :: rest → x.kind = .remapBeat →
      P (s.popAnswered.beatAnswered okay)) (h : P s) (he : step s = .next t) : P t := by
  obtain ⟨-, rfl⟩ | ⟨c, q, -, hc⟩ := step_cases he
  · exact K.idleStep h
  · have hq : P (s.withPending q) := K.withPending h
    exact K.exec hq (fun b k _ => hpower b k hq) (fun _ _ => hwarm hq) (fun okay _ _ _ ha hk _ => hgrid okay hq ha hk) hc

end StepKeeps

end Sys2Proof.Machine

/-! PROOFS. The statement of spec/03_the_landing_window_and_the_grid.md on the remap queue (R61, R66, R71): every event but a reset and
the answer to a beat write leaves the entries' addresses and words where they are and adds new ones at the end alone. -/

namespace Sys2Proof.Machine

/-! ## The addresses and words of the remap queue -/

/-- What of an entry never changes: its address and its word. -/
def RemapEntry.body (e : RemapEntry) : Word × Word := (e.addr, e.data)

/-- The remap queue begins with these addresses and words. -/
def State.QueueBegins (base : List (Word × Word)) (s : State) : Prop := base <+: s.remap.queue.map RemapEntry.body

theorem State.QueueBegins.congr {base : List (Word × Word)} {s t : State} (h : s.QueueBegins base) (hr : t.remap = s.remap) :
    t.QueueBegins base := by
  unfold State.QueueBegins at h ⊢
  rw [hr]
  exact h

theorem State.QueueBegins.append {base : List (Word × Word)} {s t : State} (h : s.QueueBegins base) {new : List RemapEntry}
    (hq : t.remap.queue = s.remap.queue ++ new) : t.QueueBegins base := by
  unfold State.QueueBegins at h ⊢
  rw [hq, List.map_append]
  exact h.trans (List.prefix_append _ _)

theorem State.QueueBegins.of_map {base : List (Word × Word)} {s t : State} (h : s.QueueBegins base)
    (hq : t.remap.queue.map RemapEntry.body = s.remap.queue.map RemapEntry.body) : t.QueueBegins base := by
  unfold State.QueueBegins at h ⊢
  rw [hq]
  exact h

/-! ## The events that reach the queue -/

/-- The beats of a taken landing write join the queue at its end (R61). -/
theorem State.landBeats_queue (s : State) (o : Nat) (h : Bool) (bs : List Beat) :
    ∃ new, (s.landBeats o h bs).1.remap.queue = s.remap.queue ++ new ∧ new.length = bs.length := by
  obtain ⟨-, -, -, new, hq, hn, -⟩ := landBeats_presentBurst (s := s) (u := s) ⟨rfl, rfl, rfl, rfl⟩ o h bs
  exact ⟨new, hq, hn⟩

theorem State.takeLanding_remap (s : State) (p : PortId) (w : Write) :
    (s.takeLanding p w).remap = { (s.startAcquiring.landBeats s.remap.sequence false
        (w.beats.take (s.offsetsFor w.beats.length))).1.remap with
      sequence := s.remap.sequence + s.offsetsFor w.beats.length } := by
  unfold State.takeLanding
  dsimp only
  repeat' split
  all_goals simp

theorem State.takeLanding_queue (s : State) (p : PortId) (w : Write) :
    ∃ new, (s.takeLanding p w).remap.queue = s.remap.queue ++ new ∧ new.length = s.offsetsFor w.beats.length := by
  obtain ⟨new, hq, hn⟩ := s.startAcquiring.landBeats_queue s.remap.sequence false
    (w.beats.take (s.offsetsFor w.beats.length))
  refine ⟨new, ?_, ?_⟩
  · rw [State.takeLanding_remap, hq]
    simp
  · rw [hn, List.length_take]
    exact Nat.min_eq_left (Nat.min_le_left _ _)

/-- The issue of a beat marks its entry and leaves it in its place (R190). -/
theorem markFirst_body (q : List RemapEntry) : (markFirst q).map RemapEntry.body = q.map RemapEntry.body := by
  induction q with
  | nil => rfl
  | cons e es ih =>
    unfold markFirst
    split
    · rw [List.map_cons, List.map_cons, ih]
    · rfl

theorem State.grantTo_queue (s : State) (c : Claimant) :
    (s.grantTo c).remap.queue = if c = .remap then markFirst s.remap.queue else s.remap.queue := by
  have hnone : s.nextBeat = none → markFirst s.remap.queue = s.remap.queue := by
    unfold State.nextBeat
    generalize s.remap.queue = q
    intro hq
    induction q with
    | nil => rfl
    | cons e es ih =>
      rw [List.find?_cons] at hq
      cases he : e.issued with
      | false => simp [he] at hq
      | true => simp [markFirst, he, ih (by simpa [he] using hq)]
  cases c with
  | remap =>
    rw [if_pos rfl]
    unfold State.grantTo State.issueBeat
    dsimp only
    split
    · next h => exact (hnone h).symm
    · rfl
  | _ => simp [State.grantTo]

theorem State.grant_queue (s : State) : (s.grant).remap.queue.map RemapEntry.body = s.remap.queue.map RemapEntry.body := by
  unfold State.grant
  split
  · split
    · rw [State.grantTo_queue]
      split
      · exact markFirst_body _
      · rfl
    · rfl
  · rfl

/-- The success of an arming leaves the queue's addresses and words (R194). -/
theorem State.armSuccess_queue (s : State) :
    s.armSuccess.remap.queue = s.remap.queue.map fun e => { e with current := false } := by
  simp [State.armSuccess]

theorem State.armingEnd_queue (s : State) : s.armingEnd.remap.queue.map RemapEntry.body = s.remap.queue.map RemapEntry.body := by
  unfold State.armingEnd
  split
  · simp
  · rw [State.armSuccess_queue, List.map_map]
    rfl

/-- A STROKE_VERDICT frees no entry that an arming request waits for. -/
theorem State.afterRecord_of_stroke (s : State) {r : Record} (h : r.isStroke = true) : s.afterRecord r = s.endReporting r := by
  cases r <;> simp_all [State.afterRecord, Record.isStroke, Record.isRefusal]

/-- The completion of a STROKE_VERDICT's write, in the two orders of its blocks (R106). -/
theorem State.completeRecord_of_stroke {s : State} {e : ReportEntry} {es : List ReportEntry} (hq : s.writer.queue = e :: es)
    (hs : e.record.isStroke = true) (a : Word) (okay adv first : Bool) :
    s.completeRecord a okay adv first =
      if first then (((s.freeHead a okay adv).completionFlags e.record okay).notice s.lines.flags).endReporting e.record
      else (((s.freeHead a okay adv).endReporting e.record).completionFlags e.record okay).notice
        (((s.freeHead a okay adv).endReporting e.record).lines.flags &&&
          ~~~((s.freeHead a okay adv).lines.flags &&& ~~~s.lines.flags)) := by
  rw [State.completeRecord, hq]
  simp only [State.afterRecord_of_stroke _ hs]

theorem State.completeRecord_stroke_frame {s : State} {e : ReportEntry} {es : List ReportEntry} (hq : s.writer.queue = e :: es)
    (hs : e.record.isStroke = true) (a : Word) (okay adv first : Bool) :
    let t := s.completeRecord a okay adv first
    t.portA = s.portA ∧ t.portS = s.portS ∧ t.recipe = s.recipe ∧ t.protection = s.protection ∧ t.remap = s.remap ∧
      t.checker = s.checker ∧ t.arbiter = s.arbiter := by
  dsimp only
  rw [State.completeRecord_of_stroke hq hs]
  split <;> simp

/-! ## Every step -/

theorem queueBegins_stepKeeps (base : List (Word × Word)) : StepKeeps (State.QueueBegins base) fun _ => True where
  ok_of_wellFormed _ := trivial
  ok_of_waiting _ _ := trivial
  setPort h _ := h.congr (by simp)
  resetLine h := h
  pressLine h := h
  withPending h := h
  prescaler h := h
  countDown h := h
  refuseWrite h := h.congr (by simp)
  writeRecipe h _ _ _ _ := h.congr (by simp)
  controlBeat h _ := h.congr (by simp)
  takeLanding h _ _ := (State.takeLanding_queue _ _ _).elim fun _ hn => h.append hn.1
  armingCheck h _ := h.congr (by simp)
  armingEnd h _ := h.of_map (State.armingEnd_queue _)
  abandonArming h _ := h.congr (by simp)
  endStroke h _ := h.congr (by simp)
  walkStep h _ _ := h.congr (by simp)
  grant h := h.of_map (State.grant_queue _)
  headIssued h := h.congr (by simp)
  freeHead h _ _ := h.congr (by simp)
  completionFlags h := h.congr (by simp)
  completeStroke h hq hs := h.congr (State.completeRecord_stroke_frame hq hs _ _ _ _).2.2.2.2.1
  popAnswered h _ _ := h
  completeStatus h := h.congr (by simp)
  loadAnswer h _ _ := h.congr (by simp)

/-- The answer to a beat write takes the oldest entry out and leaves the rest (R61). -/
theorem State.beatAnswered_queue (s : State) (okay : Bool) : (s.beatAnswered okay).remap.queue = s.remap.queue.tail := by
  unfold State.beatAnswered
  split
  · next h => rw [h]; rfl
  · next e es h =>
    rw [h]
    dsimp only
    split
    · rfl
    · split <;> simp

theorem execGridWriteAnswer_answered {s t : State} {okay : Bool} {x : Transaction}
    (hx : s.arbiter.inflight.head? = some x) (hk : x.kind = .remapBeat) (hd : x.discard = false)
    (h : execGridWriteAnswer okay s = .next t) : t = (s.popAnswered.beatAnswered okay).endQueueWaits := by
  obtain rfl := Host.Outcome.next.inj h
  have ho : s.oldest (· == .remapBeat) = some x := by
    unfold State.oldest
    cases hi : s.arbiter.inflight with
    | nil => simp [hi] at hx
    | cons y ys =>
      obtain rfl : y = x := by simpa [hi] using hx
      simp [hk]
  simp [ho, hd]

theorem State.beatAnswered_waitingFor (s : State) (okay : Bool) (p : PortId) (c : WaitCause) :
    (s.beatAnswered okay).waitingFor p c = s.waitingFor p c := by
  unfold State.waitingFor
  rw [State.port_congr (s := s) (by simp) (by simp)]

theorem exec_warmReset {s : State} (h : s.lines.resetN = false) : exec .warmReset s = .next s.warmReset :=
  congrArg Host.Outcome.next (if_neg (by simp [h]))

/-- Settles O32: every event keeps the queue's beginning, but for the resets, which empty it, and the answer to a beat write, which takes
its oldest entry and then ends the waits for what it freed. -/
theorem remapQueueIsFirstInFirstOut : Obligations.RemapQueueIsFirstInFirstOut := by
  intro s t hstep body empties answered
  have hbody : body = RemapEntry.body := rfl
  refine ⟨fun he => ?_, fun hne ha => ?_, fun hne ha => ?_⟩
  · obtain ⟨hp, -⟩ | ⟨c, q, hp, hc⟩ := step_cases hstep
    · simp [empties, hp] at he
    · simp only [empties, hp, List.head?_cons, Option.some.injEq] at he
      obtain ⟨b, k, rfl⟩ | ⟨rfl, hr⟩ := he
      · obtain rfl := Host.Outcome.next.inj hc
        rfl
      · obtain rfl := Host.Outcome.next.inj ((exec_warmReset (s := s.withPending q) hr).symm.trans hc)
        rfl
  · obtain ⟨⟨okay, hhead⟩, x, hx, hk, hd⟩ := ha
    obtain ⟨hp, -⟩ | ⟨c, q, hp, hc⟩ := step_cases hstep
    · simp [hp] at hhead
    · obtain rfl : c = .gridWriteAnswer okay := by simpa [hp] using hhead
      have ht := execGridWriteAnswer_answered (s := s.withPending q) hx hk hd hc
      have hbegin : ((s.withPending q).popAnswered.beatAnswered okay).QueueBegins (s.remap.queue.map RemapEntry.body).tail := by
        unfold State.QueueBegins
        rw [State.beatAnswered_queue, List.map_tail]
        exact List.prefix_refl _
      obtain ⟨new, hnew⟩ := (queueBegins_stepKeeps _).endQueueWaits hbegin
      refine ⟨new, by rw [ht, hbody, hnew], fun hw => ?_⟩
      have hwait : ∀ p c, ((s.withPending q).popAnswered.beatAnswered okay).waitingFor p c = s.waitingFor p c :=
        fun p c => State.beatAnswered_waitingFor _ okay p c
      rw [endQueueWaits_of_none (fun p => by rw [hwait, hwait]; exact hw p), State.beatAnswered_queue, List.map_tail] at hnew
      simpa using hnew
  · have K := queueBegins_stepKeeps (s.remap.queue.map RemapEntry.body)
    have hbegin : s.QueueBegins (s.remap.queue.map RemapEntry.body) := List.prefix_refl _
    have hend : t.QueueBegins (s.remap.queue.map RemapEntry.body) := by
      obtain ⟨-, rfl⟩ | ⟨c, q, hp, hc⟩ := step_cases hstep
      · exact K.idleStep hbegin
      · simp only [empties, answered, hp, List.head?_cons, Option.some.injEq] at hne ha
        refine K.exec (K.withPending hbegin) (fun b k h => ?_) (fun h hr => ?_) (fun okay x rest h hi hk hd => ?_) hc
        · exact absurd (.inl ⟨b, k, h⟩) hne
        · exact absurd (.inr ⟨h, hr⟩) hne
        · exact absurd ⟨⟨okay, h⟩, x, by rw [show s.arbiter.inflight = x :: rest from hi]; rfl, hk, hd⟩ ha
    obtain ⟨new, hnew⟩ := hend
    exact ⟨new, by rw [hbody, hnew]⟩

end Sys2Proof.Machine

/-! PROOFS. The invariants of the pin checker (R46, R49), of the recipe shadow (R154) and of port M (R61, R183, R192): each is kept by
every event that reaches what it reads. -/

namespace Sys2Proof.Machine

/-! ## The pin checker -/

theorem State.checkerOk_congr {s t : State} (hs : s.checkerOk) (h : t.checker = s.checker) : t.checkerOk := by
  unfold State.checkerOk State.pin State.slotFailing at hs ⊢
  rw [h]
  exact hs

theorem slotOf_lt {m : Memory} {p : Plan} {c n : Nat} (h : slotOf m p c = some n) : n < 4 := by
  have hmem := List.mem_of_find?_eq_some h
  simp only [List.mem_cons, List.not_mem_nil, or_false] at hmem
  omega

/-- The four failing counts after a replaced context that fails a pin of slot n (R49). -/
theorem slotFailing_set (v : Vector Nat 4) {n : Nat} (hn : n < 4) (x k : Nat) :
    (v.setIfInBounds n x).getD k 0 = if k = n then x else v.getD k 0 := by
  by_cases hk : k < 4
  · by_cases h : k = n
    · subst h
      simp [Vector.getD, hk]
    · simp [Vector.getD, hk, h, Ne.symm h]
  · have h : k ≠ n := by omega
    simp [Vector.getD, hk, h]

/-- A replaced context moves the counts when it fails a GOOD pin of a slot, and not otherwise (R49). -/
theorem State.putPin_counts (s : State) (c : Nat) (x : PinContext) :
    (∃ n, slotOf s.recipe.shadow s.stroke.latched c = some n ∧ (s.pin c).health = .good ∧ x.health = .failed ∧
      (s.putPin c x).checker.totalFailing = s.checker.totalFailing + 1 ∧
      ∀ k, (s.putPin c x).slotFailing k = if k = n then s.slotFailing n + 1 else s.slotFailing k) ∨
    ((slotOf s.recipe.shadow s.stroke.latched c = none ∨ ¬ ((s.pin c).health = .good ∧ x.health = .failed)) ∧
      (s.putPin c x).checker.totalFailing = s.checker.totalFailing ∧
      ∀ k, (s.putPin c x).slotFailing k = s.slotFailing k) := by
  unfold State.putPin
  dsimp only
  split
  · next hf =>
    cases hn : slotOf s.recipe.shadow s.stroke.latched c with
    | none => exact .inr ⟨.inl rfl, rfl, fun _ => rfl⟩
    | some n => exact .inl ⟨n, rfl, hf.1, hf.2, rfl, fun k => slotFailing_set _ (slotOf_lt hn) _ k⟩
  · next hf => exact .inr ⟨.inr hf, rfl, fun _ => rfl⟩

/-- A context in order may replace another (R49). -/
theorem State.checkerOk_putPin {s : State} (h : s.checkerOk) (c : Nat) {x : PinContext} (hx : x.ok = true) :
    (s.putPin c x).checkerOk := by
  obtain ⟨hpins, htotal⟩ := h
  refine ⟨fun d => ?_, ?_⟩
  · by_cases hd : d = c
    · subst hd
      by_cases hlt : d < 1024
      · rw [State.pin_putPin_self _ _ _ hlt]
        exact hx
      · rw [State.pin_of_ge _ d (Nat.not_lt.mp hlt)]
        rfl
    · rw [State.pin_putPin_ne _ _ _ _ hd]
      exact hpins d
  · obtain ⟨n, hslot, -, -, ht, hk⟩ | ⟨-, ht, hk⟩ := s.putPin_counts c x
    · have hn := slotOf_lt hslot
      rw [ht, hk, hk, hk, hk, htotal]
      interval_cases n <;> simp <;> omega
    · rw [ht, hk, hk, hk, hk, htotal]

theorem State.checkerOk_presentBeat {s : State} (h : s.checkerOk) (c st : Nat) (w : Word) (halted : Bool) :
    (s.presentBeat c st w halted).2.2.checkerOk := by
  unfold State.presentBeat
  split
  · exact h
  · exact State.checkerOk_putPin h c (ok_judge _ _ _ _ _ (h.1 c))

theorem State.checkerOk_landBeats {s : State} (h : s.checkerOk) (o : Nat) (halted : Bool) (bs : List Beat) :
    (s.landBeats o halted bs).1.checkerOk := by
  induction bs generalizing s o halted with
  | nil => exact h
  | cons b bs ih =>
    refine ih (s := (s.landBeat o b halted).1) ?_ _ _
    exact State.checkerOk_congr (State.checkerOk_presentBeat h _ _ b.data halted) rfl

theorem State.checkerOk_finalCheck {s : State} (h : s.checkerOk) (c : Nat) : (s.finalCheck c).checkerOk := by
  unfold State.finalCheck
  split
  · exact h
  · split
    · exact State.checkerOk_putPin h c (PinContext.addFault_ok _ _ _ (h.1 c))
    · exact h

theorem State.checkerOk_walkStep {s : State} (h : s.checkerOk) : s.walkStep.checkerOk := by
  unfold State.walkStep
  split
  · next c _ => exact State.checkerOk_congr (State.checkerOk_finalCheck h c) (by simp)
  · exact State.checkerOk_congr h (by simp)

/-- A cleared checker is in order: no context has a fault, and every count is 0 (R26). -/
theorem State.checkerOk_of_fresh {t : State} (hp : ∀ c, (t.pin c).Fresh) (hn : ∀ n, t.slotFailing n = 0)
    (ht : t.checker.totalFailing = 0) : t.checkerOk := by
  refine ⟨fun c => ?_, by simp [hn, ht]⟩
  obtain h | h := hp c <;> rw [h] <;> rfl

theorem slotFailing_replicate (n : Nat) : (Vector.replicate 4 0 : Vector Nat 4).getD n 0 = 0 := by
  by_cases h : n < 4 <;> simp [Vector.getD, h]

theorem State.checkerOk_armingEnd {s : State} (h : s.checkerOk) : s.armingEnd.checkerOk := by
  unfold State.armingEnd
  split
  · exact State.checkerOk_congr h (by simp)
  · exact State.checkerOk_of_fresh s.pin_armSuccess_fresh
      (fun n => by simpa [State.slotFailing, State.armSuccess, State.clearPins] using slotFailing_replicate n)
      (by simp [State.armSuccess, State.clearPins])

theorem State.checkerOk_powerOn (s : State) (b : Fin 8) (k : Fin 4) : (s.powerOn b k).checkerOk :=
  State.checkerOk_of_fresh (s.pin_powerOn_fresh b k) (fun n => slotFailing_replicate n) rfl

theorem checkerOk_stepKeeps : StepKeeps State.checkerOk fun _ => True where
  ok_of_wellFormed _ := trivial
  ok_of_waiting _ _ := trivial
  setPort h _ := State.checkerOk_congr h (by simp)
  resetLine h := h
  pressLine h := h
  withPending h := h
  prescaler h := h
  countDown h := h
  refuseWrite h := State.checkerOk_congr h (by simp)
  writeRecipe h _ _ _ _ := State.checkerOk_congr h (by simp)
  controlBeat h _ := State.checkerOk_congr h (by simp)
  takeLanding h _ _ := State.checkerOk_congr
    (State.checkerOk_landBeats (State.checkerOk_congr h (State.startAcquiring_frame _).2.2.2.2.2.2.2.2.1) _ false _)
    (State.takeLanding_checker _ _ _)
  armingCheck h _ := State.checkerOk_congr h (by simp)
  armingEnd h _ := State.checkerOk_armingEnd h
  abandonArming h _ := State.checkerOk_congr h (by simp)
  endStroke h _ := State.checkerOk_congr h (by simp)
  walkStep h _ _ := State.checkerOk_walkStep h
  grant h := State.checkerOk_congr h (by simp)
  headIssued h := State.checkerOk_congr h (by simp)
  freeHead h _ _ := State.checkerOk_congr h (by simp)
  completionFlags h := State.checkerOk_congr h (by simp)
  completeStroke h hq hs := by
    obtain ⟨-, -, -, -, -, hc, -⟩ := State.completeRecord_stroke_frame hq hs _ _ _ _
    exact State.checkerOk_congr h hc
  popAnswered h _ _ := h
  completeStatus h := State.checkerOk_congr h (by simp)
  loadAnswer h _ _ := State.checkerOk_congr h (by simp)

/-- Settles O59: the events that replace a context put one in order, and the counts follow its failing. -/
theorem stepKeepsPinContexts : Obligations.StepKeepsPinContexts := fun _ _ h hstep =>
  checkerOk_stepKeeps.step (fun b k _ => State.checkerOk_powerOn _ b k) (fun h => State.checkerOk_congr h rfl)
    (fun _ h _ _ => State.checkerOk_congr h (by simp)) h hstep

/-! ## The transactions outstanding, by kind -/

/-- The kinds of the transactions outstanding, oldest first. -/
def State.kinds (s : State) : List TransactionKind := s.arbiter.inflight.map Transaction.kind

theorem State.kinds_congr {s t : State} (h : t.arbiter = s.arbiter) : t.kinds = s.kinds := by
  unfold State.kinds
  rw [h]

theorem State.length_inflight (s : State) : s.arbiter.inflight.length = s.kinds.length := by simp [State.kinds]

theorem State.length_filter_inflight (s : State) (p : TransactionKind → Bool) :
    (s.arbiter.inflight.filter fun t => p t.kind).length = (s.kinds.filter p).length := by
  simp [State.kinds, List.filter_map, Function.comp_def]

theorem State.writerBusy_iff (s : State) : s.writerBusy = s.kinds.any TransactionKind.ofWriter := by
  simp [State.writerBusy, State.kinds, List.any_map, Function.comp_def]

/-- A move of the ring leaves the transactions' kinds (R184). -/
theorem State.writeRecipe_kinds (s : State) (off : Nat) (bs : List Beat) : (s.writeRecipe off bs).kinds = s.kinds := by
  unfold State.writeRecipe State.resetRing
  dsimp only
  (repeat' split) <;> simp [State.kinds, Function.comp_def]

theorem State.warmReset_kinds (s : State) : s.warmReset.kinds = s.kinds := by
  simp [State.kinds, State.warmReset, Transaction.afterReset, Function.comp_def]

theorem State.popAnswered_kinds (s : State) : s.popAnswered.kinds = s.kinds.tail := by
  simp [State.kinds]

/-- A grant is made to a claimant that is ready, with fewer than four transactions outstanding (R191, R192). -/
theorem State.grant_cases (s : State) :
    s.grant = s ∨ ∃ c, s.arbiter.inflight.length < Config.maxOutstanding ∧ s.ready c = true ∧ s.grant = s.grantTo c := by
  unfold State.grant
  split
  · next hlen =>
    split
    · next c hc =>
      refine .inr ⟨c, hlen, ?_, rfl⟩
      unfold State.winner at hc
      split at hc
      · next hhigh =>
        obtain rfl := Option.some.inj hc
        exact hhigh.2
      · exact List.find?_some hc
    · exact .inl rfl
  · exact .inl rfl

/-- The report writer's choice, when it is not to do nothing or to meet the region. -/
theorem State.issueReport_cases {s : State} (h : s.ready .report = true) :
    (s.stroke.state = .loading ∧ s.writer.loadIssued < Config.loadReads ∧ s.issueReport = s.issueLoad) ∨
      (s.stroke.state ≠ .loading ∧ s.writerBusy = false ∧
        ((s.writer.queue ≠ [] ∧ s.issueReport = s.issueRecord) ∨ s.issueReport = s.issueStatus)) := by
  unfold State.ready at h
  unfold State.issueReport
  by_cases hl : s.stroke.state = .loading
  · left
    by_cases hn : s.writer.loadIssued < Config.loadReads
    · have hw : s.writerChoice = .loadRead := by simp [State.writerChoice, hl, hn]
      exact ⟨hl, hn, by rw [hw]⟩
    · simp [State.writerChoice, hl, hn] at h
  · right
    cases hb : s.writerBusy with
    | true => simp [State.writerChoice, hl, hb] at h
    | false =>
      refine ⟨hl, rfl, ?_⟩
      cases hw : s.writerChoice with
      | nothing | toRegion => simp [hw] at h
      | loadRead =>
        unfold State.writerChoice at hw
        simp only [hl, hb, if_false, Bool.false_eq_true] at hw
        (repeat' split at hw) <;> cases hw
      | status => exact .inr rfl
      | record =>
        refine .inl ⟨?_, rfl⟩
        unfold State.writerChoice at hw
        simp only [hl, hb, if_false, Bool.false_eq_true] at hw
        split at hw
        · next hc =>
          intro hq
          simp [hq] at hc
        · split at hw <;> cases hw

/-! ### What an issue adds to the outstanding transactions -/

@[simp] theorem State.issue_kinds (s : State) (k : TransactionKind) (r : Request) : (s.issue k r).kinds = s.kinds ++ [k] := by
  simp [State.kinds]

theorem State.issuePort_kinds (s : State) (p : PortId) :
    (s.issuePort p).kinds = s.kinds ∨ (s.issuePort p).kinds = s.kinds ++ [.passThrough p] := by
  unfold State.issuePort
  split
  · exact .inl rfl
  · exact .inr (by rw [State.issue_kinds, State.kinds_congr (s := s) (by simp)])

theorem State.issueBeat_kinds (s : State) : s.issueBeat.kinds = s.kinds ∨ s.issueBeat.kinds = s.kinds ++ [.remapBeat] := by
  unfold State.issueBeat
  split
  · exact .inl rfl
  · exact .inr (State.issue_kinds _ _ _)

theorem State.issueRecord_kinds {s : State} (h : s.writer.queue ≠ []) : s.issueRecord.kinds = s.kinds ++ [.record] := by
  unfold State.issueRecord
  split
  · next hq => exact absurd hq h
  · rw [State.issue_kinds, State.kinds_congr (s := s) (by simp)]

theorem State.issueStatus_kinds (s : State) : s.issueStatus.kinds = s.kinds ++ [.status] := State.issue_kinds _ _ _

theorem State.issueLoad_kinds (s : State) : s.issueLoad.kinds = s.kinds ++ [.loadRead s.writer.loadIssued] :=
  State.issue_kinds _ _ _

/-- The state with the rotation pointer at a claimant. -/
def State.pointTo (s : State) (c : Claimant) : State := { s with arbiter := { s.arbiter with pointer := c } }

theorem State.grantTo_eq (s : State) (c : Claimant) :
    s.grantTo c = match c with
      | .portA => (s.pointTo c).issuePort .a
      | .portS => (s.pointTo c).issuePort .s
      | .remap => (s.pointTo c).issueBeat
      | .report => (s.pointTo c).issueReport := by
  cases c <;> rfl

@[simp] theorem State.pointTo_kinds (s : State) (c : Claimant) : (s.pointTo c).kinds = s.kinds := rfl

/-- A grant issues one transaction at most: a writer's write only when the writer has none outstanding (R183, R190). -/
theorem State.grant_kinds (s : State) : s.grant.kinds = s.kinds ∨
    ∃ k, s.kinds.length < Config.maxOutstanding ∧ s.grant.kinds = s.kinds ++ [k] ∧ (k.ofWriter = true → s.writerBusy = false) := by
  obtain h | ⟨c, hlen, hready, h⟩ := s.grant_cases
  · exact .inl (by rw [h])
  · rw [h, State.grantTo_eq]
    rw [State.length_inflight] at hlen
    cases c with
    | portA => exact ((s.pointTo _).issuePort_kinds .a).imp id fun hk => ⟨_, hlen, hk, by simp [TransactionKind.ofWriter]⟩
    | portS => exact ((s.pointTo _).issuePort_kinds .s).imp id fun hk => ⟨_, hlen, hk, by simp [TransactionKind.ofWriter]⟩
    | remap => exact (s.pointTo _).issueBeat_kinds.imp id fun hk => ⟨_, hlen, hk, by simp [TransactionKind.ofWriter]⟩
    | report =>
      right
      obtain ⟨-, -, hi⟩ | ⟨-, hb, ⟨hq, hi⟩ | hi⟩ := State.issueReport_cases (s := s.pointTo .report) hready
      · exact ⟨_, hlen, by dsimp only; rw [hi, State.issueLoad_kinds]; rfl, by simp [TransactionKind.ofWriter]⟩
      · exact ⟨_, hlen, by dsimp only; rw [hi, State.issueRecord_kinds hq]; rfl, fun _ => hb⟩
      · exact ⟨_, hlen, by dsimp only; rw [hi, State.issueStatus_kinds]; rfl, fun _ => hb⟩

/-! ## The bounds at port M -/

theorem State.portMOk_iff (s : State) : s.portMOk ↔ s.remap.queue.length ≤ Config.remapPlaces ∧
    s.kinds.length ≤ Config.maxOutstanding ∧ (s.kinds.filter TransactionKind.ofWriter).length ≤ 1 := by
  unfold State.portMOk
  rw [State.length_inflight, State.length_filter_inflight]

theorem State.portMOk_of {s t : State} (h : s.portMOk) (hq : t.remap.queue.length ≤ Config.remapPlaces) (hk : t.kinds = s.kinds) : t.portMOk := by
  rw [State.portMOk_iff] at h ⊢
  rw [hk]
  exact ⟨hq, h.2⟩

theorem State.portMOk_congr {s t : State} (h : s.portMOk) (hr : t.remap = s.remap) (ha : t.arbiter = s.arbiter) : t.portMOk :=
  State.portMOk_of h (by rw [hr]; exact h.1) (State.kinds_congr ha)

theorem State.portMOk_grant {s : State} (h : s.portMOk) : s.grant.portMOk := by
  have hq : s.grant.remap.queue.length ≤ Config.remapPlaces := by
    have := congrArg List.length s.grant_queue
    simp only [List.length_map] at this
    rw [this]
    exact h.1
  obtain hk | ⟨k, hlen, hk, hw⟩ := s.grant_kinds
  · exact State.portMOk_of h hq hk
  · rw [State.portMOk_iff] at h ⊢
    obtain ⟨-, -, hone⟩ := h
    refine ⟨hq, by rw [hk, List.length_append]; exact hlen, ?_⟩
    rw [hk, List.filter_append, List.length_append]
    cases hof : k.ofWriter with
    | false => simpa [hof] using hone
    | true =>
      have hnone : s.kinds.filter TransactionKind.ofWriter = [] := by
        have hb := hw hof
        rw [State.writerBusy_iff, List.any_eq_false] at hb
        exact List.filter_eq_nil_iff.mpr hb
      simp [hnone, hof]

theorem State.portMOk_tail {s t : State} (h : s.portMOk) (hq : t.remap.queue.length ≤ Config.remapPlaces) (hk : t.kinds = s.kinds.tail) :
    t.portMOk := by
  rw [State.portMOk_iff] at h ⊢
  obtain ⟨-, hfour, hone⟩ := h
  rw [hk]
  refine ⟨hq, le_trans (by simp) hfour, le_trans ?_ hone⟩
  exact (List.Sublist.filter _ (List.tail_sublist _)).length_le

theorem State.portMOk_takeLanding {s : State} (h : s.portMOk) (p : PortId) {w : Write}
    (hroom : s.roomFor w.beats.length = true) : (s.takeLanding p w).portMOk := by
  obtain ⟨new, hq, hn⟩ := s.takeLanding_queue p w
  refine State.portMOk_of h ?_ (State.kinds_congr (by simp))
  have hlen : s.offsetsFor w.beats.length ≤ w.beats.length := Nat.min_le_left _ _
  rw [hq, List.length_append, hn]
  exact le_trans (Nat.add_le_add_left hlen _) (of_decide_eq_true hroom)

theorem State.portMOk_armingEnd {s : State} (h : s.portMOk) : s.armingEnd.portMOk := by
  refine State.portMOk_of h ?_ (State.kinds_congr (by simp))
  have := congrArg List.length s.armingEnd_queue
  simp only [List.length_map] at this
  rw [this]
  exact h.1

theorem portMOk_stepKeeps : StepKeeps State.portMOk fun _ => True where
  ok_of_wellFormed _ := trivial
  ok_of_waiting _ _ := trivial
  setPort h _ := State.portMOk_congr h (by simp) (by simp)
  resetLine h := h
  pressLine h := h
  withPending h := h
  prescaler h := h
  countDown h := h
  refuseWrite h := State.portMOk_congr h (by simp) (by simp)
  writeRecipe {s w} h _ _ _ _ := State.portMOk_of h (by simpa using h.1) (s.writeRecipe_kinds _ _)
  controlBeat h _ := State.portMOk_congr h (by simp) (by simp)
  takeLanding h _ hroom := State.portMOk_takeLanding h _ hroom
  armingCheck h _ := State.portMOk_congr h (by simp) (by simp)
  armingEnd h _ := State.portMOk_armingEnd h
  abandonArming h _ := State.portMOk_congr h (by simp) (by simp)
  endStroke h _ := State.portMOk_congr h (by simp) (by simp)
  walkStep h _ _ := State.portMOk_congr h (by simp) (by simp)
  grant h := State.portMOk_grant h
  headIssued h := State.portMOk_congr h (by simp) (by simp)
  freeHead h _ _ := State.portMOk_congr h (by simp) (by simp)
  completionFlags h := State.portMOk_congr h (by simp) (by simp)
  completeStroke h hq hs := by
    obtain ⟨-, -, -, -, hr, -, ha⟩ := State.completeRecord_stroke_frame hq hs _ _ _ _
    exact State.portMOk_congr h hr ha
  popAnswered {s _ _} h _ _ := State.portMOk_tail h h.1 s.popAnswered_kinds
  completeStatus h := State.portMOk_congr h (by simp) (by simp)
  loadAnswer {s _ _ _ _ _} h _ _ :=
    State.portMOk_tail h (by simpa using h.1) ((State.kinds_congr (by simp)).trans s.popAnswered_kinds)

theorem State.portMOk_beatAnswered {s : State} (h : s.portMOk) (okay : Bool) : (s.popAnswered.beatAnswered okay).portMOk := by
  refine State.portMOk_tail h ?_ ((State.kinds_congr (by simp)).trans s.popAnswered_kinds)
  rw [State.beatAnswered_queue, List.length_tail]
  exact le_trans (Nat.sub_le _ _) h.1

/-- Settles O56: the queue grows by a landing write that finds room, and a grant adds one transaction to fewer than four, a writer's to
none of its own. -/
theorem stepKeepsPortMBounds : Obligations.StepKeepsPortMBounds := fun _ _ h hstep =>
  portMOk_stepKeeps.step (fun _ _ _ => ⟨Nat.zero_le _, Nat.zero_le _, Nat.zero_le _⟩)
    (fun h => State.portMOk_of h (Nat.zero_le _) (State.warmReset_kinds _))
    (fun okay h _ _ => State.portMOk_beatAnswered h okay) h hstep

end Sys2Proof.Machine

/-! PROOFS. The invariant of the recipe shadow (R154): its canonical form, its bound and its sum, with what waits at the ports well
formed, so that a waiting write stays within one line when it is taken. -/

namespace Sys2Proof.Machine

/-! ## What an event does to the ports, beyond the request it is about -/

/-- Every port of the later state is as it was, or FREE. -/
def State.PortsSettle (s t : State) : Prop := ∀ p, t.port p = s.port p ∨ (t.port p).status = .free

theorem State.PortsSettle.of_ports {s t : State} (hA : t.portA = s.portA) (hS : t.portS = s.portS) : s.PortsSettle t :=
  fun p => .inl (State.port_congr hA hS p)

theorem State.PortsSettle.trans {s t u : State} (a : s.PortsSettle t) (b : t.PortsSettle u) : s.PortsSettle u := fun p =>
  (b p).elim (fun h => (a p).imp (h.trans ·) (h ▸ ·)) .inr

theorem State.PortsSettle.andThen {s t u : State} (a : s.PortsSettle t) (hA : u.portA = t.portA) (hS : u.portS = t.portS) :
    s.PortsSettle u := a.trans (.of_ports hA hS)

theorem State.portsSettle_answer (s : State) (p : PortId) (x : Answer) : s.PortsSettle (s.answer p x) := fun q => by
  by_cases h : q = p
  · subst h
    simp
  · exact .inl (State.port_setPort_ne s p q _ h)

theorem State.portsSettle_dropWaiting (s : State) (p : PortId) : s.PortsSettle (s.dropWaiting p) := by
  unfold State.dropWaiting
  split
  · exact (s.portsSettle_answer p .dropped).andThen (by simp) (by simp)
  all_goals exact .of_ports rfl rfl

theorem State.portsSettle_endStroke (s : State) (o : StrokeOutcome) : s.PortsSettle (s.endStroke o) := by
  refine State.PortsSettle.trans ?_ ((State.portsSettle_dropWaiting _ .a).trans (State.portsSettle_dropWaiting _ .s))
  split
  · exact .of_ports (by simp) (by simp)
  · split <;> exact .of_ports (by simp) (by simp)

theorem State.portsSettle_hardChange (s : State) : s.PortsSettle s.hardChange := by
  unfold State.hardChange
  split
  case h_4 | h_5 => exact s.portsSettle_endStroke _
  all_goals exact .of_ports (by simp) (by simp)

theorem State.portsSettle_abort (s : State) : s.PortsSettle s.abort.1 := by
  unfold State.abort
  split
  case h_4 | h_5 => exact (s.portsSettle_endStroke .aborted).andThen (by simp) (by simp)
  all_goals exact .of_ports (by simp) (by simp)

theorem State.portsSettle_ownerActs (s : State) (b : Beat) : s.PortsSettle (s.ownerActs b).1 := by
  unfold State.ownerActs
  split
  · split
    · exact s.portsSettle_abort
    all_goals exact .of_ports (by simp) (by simp)
  · exact .of_ports rfl rfl

theorem State.portsSettle_controlBeat (s : State) (ob : Nat × Beat) : s.PortsSettle (s.controlBeat ob) := by
  unfold State.controlBeat
  dsimp only
  (repeat' split)
  case isFalse.isTrue => exact s.portsSettle_ownerActs ob.2
  all_goals exact .of_ports (by simp) (by simp)

/-! ## A write to the recipe area, and its hard-change notice -/

/-- A taken recipe write before any hard-change notice: shadow and sum, and the ring where it moves (R153, R154, R184). -/
def State.recipeStored (s : State) (off : Nat) (bs : List Beat) : State :=
  let s1 := ({ s with recipe := { s.recipe with
    shadow := applyBeats s.recipe.shadow off bs, sum := sumBeats s.recipe.sum s.recipe.shadow off bs } }).dirtyIf
      (sumBeats s.recipe.sum s.recipe.shadow off bs != s.recipe.sum)
  if ringMoved s.recipe.shadow (applyBeats s.recipe.shadow off bs) then s1.resetRing else s1

/-- The write changes a hard bit of a word it touches (R155). -/
def hardWrite (m : Memory) (off : Nat) (bs : List Beat) : Bool :=
  (beatsFrom off bs).any fun ob => hardDiffers m (applyBeats m off bs) ob.1

theorem State.writeRecipe_eq (s : State) (off : Nat) (bs : List Beat) :
    s.writeRecipe off bs =
      if hardWrite s.recipe.shadow off bs then (s.recipeStored off bs).hardChange else s.recipeStored off bs := rfl

@[simp] theorem State.recipeStored_frame (s : State) (off : Nat) (bs : List Beat) :
    (s.recipeStored off bs).ctrlBase = s.ctrlBase ∧ (s.recipeStored off bs).clkSel = s.clkSel ∧
    (s.recipeStored off bs).prescaler = s.prescaler ∧ (s.recipeStored off bs).portA = s.portA ∧
    (s.recipeStored off bs).portS = s.portS ∧ (s.recipeStored off bs).protection = s.protection ∧
    (s.recipeStored off bs).stroke = s.stroke ∧ (s.recipeStored off bs).remap = s.remap ∧
    (s.recipeStored off bs).checker = s.checker ∧ (s.recipeStored off bs).walker = s.walker ∧
    (s.recipeStored off bs).lines = s.lines ∧ (s.recipeStored off bs).pending = s.pending := by
  unfold State.recipeStored
  dsimp only
  split <;> simp

@[simp] theorem State.recipeStored_recipe (s : State) (off : Nat) (bs : List Beat) :
    (s.recipeStored off bs).recipe = { s.recipe with
      shadow := applyBeats s.recipe.shadow off bs, sum := sumBeats s.recipe.sum s.recipe.shadow off bs } := by
  unfold State.recipeStored
  dsimp only
  split <;> simp

theorem State.portsSettle_writeRecipe (s : State) (off : Nat) (bs : List Beat) : s.PortsSettle (s.writeRecipe off bs) := by
  have hstored : s.PortsSettle (s.recipeStored off bs) := .of_ports (by simp) (by simp)
  rw [State.writeRecipe_eq]
  split
  · exact hstored.trans (State.portsSettle_hardChange _)
  · exact hstored

/-! ## Taking a landing write, and its end -/

/-- The beats of a landing write that receive an offset, judged and queued (R64). -/
def State.landRun (s : State) (w : Write) : State × Bool :=
  s.startAcquiring.landBeats s.remap.sequence false (w.beats.take (s.offsetsFor w.beats.length))

/-- A taken landing write before any end of the stroke: its beats judged and queued, counted and answered (R68, R69). -/
def State.landed (s : State) (p : PortId) (w : Write) : State :=
  ((s.landRun w).1.setSequence (s.remap.sequence + s.offsetsFor w.beats.length)).answer p
    (if s.offsetsFor w.beats.length < w.beats.length then .trimmed else .done)

theorem State.landed_state (s : State) (p : PortId) (w : Write) : (s.landed p w).stroke.state = .acquiring := by
  simp [State.landed, State.landRun]

theorem State.haltStroke_not_acquiring (s : State) : s.haltStroke.stroke.state ≠ .acquiring := by
  obtain ⟨st, hst, he⟩ := ((s.setHaltLatch true).raise .halt).endStroke_stroke .halted
  rw [State.haltStroke, he]
  rcases hst with rfl | rfl <;> simp

/-- A taken landing write: the halting notice ends the stroke first, else the last sample does (R53, R70). -/
theorem State.takeLanding_eq (s : State) (p : PortId) (w : Write) :
    s.takeLanding p w =
      if (s.landRun w).2 then (s.landed p w).haltStroke
      else if s.remap.sequence + s.offsetsFor w.beats.length = s.cells * s.steps then (s.landed p w).endStroke .complete
      else s.landed p w := by
  have e : s.takeLanding p w =
      let s2 := if (s.landRun w).2 then (s.landed p w).haltStroke else s.landed p w
      if s.remap.sequence + s.offsetsFor w.beats.length = s.cells * s.steps ∧ s2.stroke.state = .acquiring then
        s2.endStroke .complete else s2 := rfl
  rw [e]
  cases (s.landRun w).2 with
  | true => simp [State.haltStroke_not_acquiring]
  | false => simp [State.landed_state]

theorem State.portsSettle_haltStroke (s : State) : s.PortsSettle s.haltStroke :=
  State.PortsSettle.trans (.of_ports (by simp) (by simp)) (State.portsSettle_endStroke ((s.setHaltLatch true).raise .halt) .halted)

theorem State.portsSettle_takeLanding (s : State) (p : PortId) (w : Write) : s.PortsSettle (s.takeLanding p w) := by
  have hland : s.PortsSettle (s.landed p w) :=
    State.PortsSettle.trans (.of_ports (by simp [State.landRun]) (by simp [State.landRun])) (State.portsSettle_answer _ p _)
  rw [State.takeLanding_eq]
  split
  · exact hland.trans (State.portsSettle_haltStroke _)
  · split
    · exact hland.trans (State.portsSettle_endStroke _ _)
    · exact hland

/-! ## The recipe after a write -/

/-- A write to the recipe area gives the shadow its bytes and the sum their change; no notice touches either (R153, R154). -/
theorem State.writeRecipe_recipe (s : State) (off : Nat) (bs : List Beat) :
    (s.writeRecipe off bs).recipe = { s.recipe with
      shadow := applyBeats s.recipe.shadow off bs, sum := sumBeats s.recipe.sum s.recipe.shadow off bs } := by
  rw [State.writeRecipe_eq]
  split <;> simp

/-- The recipe part of the invariant, of the recipe alone. -/
def RecipeBlock.ok (r : RecipeBlock) : Prop :=
  r.shadow.wf = true ∧ (r.shadow.all fun c => decide (c.1 < Config.recipeBytes)) = true ∧ r.sum = shadowSum r.shadow

theorem State.shadowOk_iff (s : State) : s.shadowOk ↔ s.recipe.ok ∧ ∀ p, (s.port p).waitingOk = true := by
  constructor
  · rintro ⟨h1, h2, h3, hA, hS⟩
    exact ⟨⟨h1, h2, h3⟩, fun p => by cases p <;> assumption⟩
  · rintro ⟨⟨h1, h2, h3⟩, hp⟩
    exact ⟨h1, h2, h3, hp .a, hp .s⟩

theorem RecipeBlock.ok_applyBeats {r : RecipeBlock} (h : r.ok) {off : Nat} {bs : List Beat} (h4 : off % 4 = 0)
    (hlen : off + 4 * bs.length ≤ Config.recipeBytes) :
    RecipeBlock.ok { r with shadow := applyBeats r.shadow off bs, sum := sumBeats r.sum r.shadow off bs } := by
  obtain ⟨hwf, hin, hsum⟩ := h
  refine ⟨applyBeats_wf _ _ _ hwf, applyBeats_within _ _ _ _ hin hlen, ?_⟩
  dsimp only
  rw [hsum, sumBeats_eq _ _ _ hlen h4]

/-- A port that settles holds no request that was not well formed. -/
theorem State.shadowOk_of {s t : State} (h : s.shadowOk) (hr : t.recipe.ok) (hp : s.PortsSettle t) : t.shadowOk := by
  rw [State.shadowOk_iff] at h ⊢
  refine ⟨hr, fun p => ?_⟩
  obtain he | hf := hp p
  · rw [he]
    exact h.2 p
  · simp [NearPort.waitingOk, hf]

theorem State.shadowOk.recipe_ok {s : State} (h : s.shadowOk) : s.recipe.ok := ((State.shadowOk_iff s).mp h).1

theorem State.shadowOk_congr {s t : State} (h : s.shadowOk) (hr : t.recipe = s.recipe) (hp : s.PortsSettle t) : t.shadowOk :=
  State.shadowOk_of h (hr ▸ h.recipe_ok) hp

theorem NearPort.waitingOk_iff (np : NearPort) :
    np.waitingOk = true ↔ ∀ r c, np.status = .waiting r c → r.wellFormed = true := by
  unfold NearPort.waitingOk
  split <;> simp_all

/-- The form of a request (R170). -/
theorem Request.wellFormed_iff (r : Request) : r.wellFormed = true ↔
    r.addr.toNat % 4 = 0 ∧ 1 ≤ r.count ∧ r.count ≤ 16 ∧ r.addr.toNat % 64 + 4 * r.count ≤ 64 := by
  simp [Request.wellFormed, and_assoc]

theorem State.inRegion_iff (s : State) (a : Nat) :
    s.inRegion a = true ↔ s.regionBase ≤ a ∧ a < s.regionBase + Config.regionBytes := by
  simp [State.inRegion]

/-- A well-formed write that starts in the recipe area stays in it: the area ends at the end of a line (R153, R170). -/
theorem recipeWrite_within {s : State} {w : Write} (hw : (Request.write w).wellFormed = true)
    (hr : s.inRegion w.addr.toNat = true) (hoff : w.addr.toNat - s.regionBase < Config.recipeBytes) :
    (w.addr.toNat - s.regionBase) % 4 = 0 ∧
      w.addr.toNat - s.regionBase + 4 * w.beats.length ≤ Config.recipeBytes ∧
      (w.addr.toNat - s.regionBase) % 64 + 4 * w.beats.length ≤ 64 ∧ w.beats ≠ [] := by
  obtain ⟨h4, h1, -, hline⟩ := (Request.wellFormed_iff _).mp hw
  obtain ⟨hlo, hhi⟩ := (State.inRegion_iff _ _).mp hr
  simp only [Request.addr, Request.count] at h4 h1 hline
  have hbase : s.regionBase = s.ctrlBase.val * 536870912 := rfl
  simp only [Config.recipeBytes] at hoff ⊢
  exact ⟨by omega, by omega, by omega, List.ne_nil_of_length_pos h1⟩

/-- A line of the power-on load, stored in the recipe area or in the staging copy, keeps the recipe in order (R154, R156). -/
theorem State.storeLine_recipe_ok {s : State} (h : s.recipe.ok) (line : Nat) {ws : List Word} (hn : ws.length = 16) :
    (s.storeLine line ws).recipe.ok := by
  unfold State.storeLine
  split
  · next hl =>
    simp only [State.dirtyIf_frame]
    refine RecipeBlock.ok_applyBeats h (by omega) ?_
    simp only [Config.recipeLines] at hl
    simp only [List.length_map, hn, Config.recipeBytes]
    omega
  · exact h

theorem loadWords_length (okay : Bool) (data : LineData) : (loadWords okay data).length = 16 := by
  cases okay <;> simp [loadWords]

theorem State.loadAnswer_recipe (s : State) (line : Nat) (okay : Bool) (data : LineData) :
    (s.loadAnswer line okay data).recipe = (s.storeLine line (loadWords okay data)).recipe := by
  unfold State.loadAnswer
  dsimp only
  split <;> simp

theorem State.shadowOk_takeLanding {s : State} (h : s.shadowOk) (p : PortId) (w : Write) : (s.takeLanding p w).shadowOk :=
  State.shadowOk_congr h (by simp) (s.portsSettle_takeLanding p w)

theorem RecipeBlock.ok_congr {r r' : RecipeBlock} (h : r.ok) (hm : r'.shadow = r.shadow) (hs : r'.sum = r.sum) : r'.ok := by
  unfold RecipeBlock.ok at h ⊢
  rwa [hm, hs]

/-- A beat of the command area writes no byte of the shadow (R142). -/
theorem State.controlBeat_shadow (s : State) (ob : Nat × Beat) :
    (s.controlBeat ob).recipe.shadow = s.recipe.shadow ∧ (s.controlBeat ob).recipe.sum = s.recipe.sum := by
  unfold State.controlBeat
  dsimp only
  (repeat' split) <;> simp [State.stagePlan]

/-- The issue of a port's request leaves what waits (R190). -/
theorem NearPort.waitingOk_markIssued {np : NearPort} (h : np.waitingOk = true) :
    NearPort.waitingOk { np with status := np.status.markIssued } = true := by
  obtain ⟨st, _, _⟩ := np
  cases st with
  | waiting r c => exact h
  | free | outstanding | abandoned => rfl

theorem State.issuePort_waitingOk {s : State} (h : ∀ p, (s.port p).waitingOk = true) (q p : PortId) :
    ((s.issuePort q).port p).waitingOk = true := by
  unfold State.issuePort
  split
  · exact h p
  · next r _ =>
    have hport : ∀ t : State, ∀ k, (t.issue k r).port p = t.port p := fun t k => State.port_congr rfl rfl p
    rw [hport]
    by_cases hp : p = q
    · subst hp
      rw [State.port_setPort_self]
      exact NearPort.waitingOk_markIssued (h p)
    · rw [State.port_setPort_ne s q p _ hp]
      exact h p

theorem State.grant_waitingOk (s : State) (h : ∀ p, (s.port p).waitingOk = true) (p : PortId) :
    (s.grant.port p).waitingOk = true := by
  obtain he | ⟨c, -, -, he⟩ := s.grant_cases
  · rw [he]
    exact h p
  · rw [he, State.grantTo_eq]
    cases c with
    | portA => exact State.issuePort_waitingOk (s := s.pointTo .portA) h .a p
    | portS => exact State.issuePort_waitingOk (s := s.pointTo .portS) h .s p
    | remap | report =>
      refine (congrArg NearPort.waitingOk (State.port_congr (s := s) ?_ ?_ p)).trans (h p) <;> simp [State.pointTo]

theorem shadowOk_stepKeeps : StepKeeps State.shadowOk fun r => r.wellFormed = true where
  ok_of_wellFormed h := h
  ok_of_waiting {s p r c} h hw := (NearPort.waitingOk_iff _).mp (((State.shadowOk_iff s).mp h).2 p) r c hw
  setPort {s p np} h hnp := by
    rw [State.shadowOk_iff] at h ⊢
    refine ⟨by simpa using h.1, fun q => ?_⟩
    by_cases hq : q = p
    · subst hq
      rw [State.port_setPort_self]
      exact (NearPort.waitingOk_iff np).mpr hnp
    · rw [State.port_setPort_ne s p q np hq]
      exact h.2 q
  resetLine h := h
  pressLine h := h
  withPending h := h
  prescaler h := h
  countDown h := h
  refuseWrite h := State.shadowOk_congr h (by simp) (.of_ports (by simp) (by simp))
  writeRecipe {s w} h _ hw hr hoff := by
    obtain ⟨h4, hlen, -⟩ := recipeWrite_within hw hr hoff
    refine State.shadowOk_of h ?_ (s.portsSettle_writeRecipe _ _)
    rw [State.writeRecipe_recipe]
    exact RecipeBlock.ok_applyBeats h.recipe_ok h4 hlen
  controlBeat {s ob} h _ := State.shadowOk_of h
    (RecipeBlock.ok_congr h.recipe_ok (s.controlBeat_shadow ob).1 (s.controlBeat_shadow ob).2) (s.portsSettle_controlBeat ob)
  takeLanding h _ _ := State.shadowOk_takeLanding h _ _
  armingCheck h _ := State.shadowOk_congr h (by simp) (.of_ports (by simp) (by simp))
  armingEnd h _ := State.shadowOk_congr h (by simp) (.of_ports (by simp) (by simp))
  abandonArming h _ := State.shadowOk_congr h (by simp) (.of_ports (by simp) (by simp))
  endStroke {s o} h _ := State.shadowOk_congr h (by simp) (s.portsSettle_endStroke o)
  walkStep h _ _ := State.shadowOk_congr h (by simp) (.of_ports (by simp) (by simp))
  grant {s} h := (State.shadowOk_iff _).mpr
    ⟨by simpa using h.recipe_ok, s.grant_waitingOk ((State.shadowOk_iff s).mp h).2⟩
  headIssued h := State.shadowOk_congr h (by simp) (.of_ports (by simp) (by simp))
  freeHead h _ _ := State.shadowOk_congr h (by simp) (.of_ports (by simp) (by simp))
  completionFlags h := State.shadowOk_congr h (by simp) (.of_ports (by simp) (by simp))
  completeStroke h hq hs := by
    obtain ⟨hA, hS, hr, -⟩ := State.completeRecord_stroke_frame hq hs _ _ _ _
    exact State.shadowOk_congr h hr (.of_ports hA hS)
  popAnswered h _ _ := h
  completeStatus h := State.shadowOk_congr h (by simp) (.of_ports (by simp) (by simp))
  loadAnswer {s _ _ _ _ _} h _ _ := by
    refine State.shadowOk_of h ?_ (.of_ports (by simp) (by simp))
    rw [State.loadAnswer_recipe]
    exact State.storeLine_recipe_ok (s := s.popAnswered) h.recipe_ok _ (loadWords_length _ _)

theorem shadowSum_nil : shadowSum [] = 0 := by
  have hzero : ((List.range 2304).map fun i => Memory.readWord [] (4 * i)) = List.replicate 2304 0 := by
    rw [List.eq_replicate_iff]
    exact ⟨by simp, fun b hb => by obtain ⟨i, -, rfl⟩ := List.mem_map.mp hb; simp [Memory.readWord, Memory.readByte]⟩
  rw [shadowSum, hzero, List.sum_replicate, smul_zero]

theorem NearPort.waitingOk_afterReset (np : NearPort) :
    NearPort.waitingOk { np with status := np.status.afterReset } = true := by
  unfold NearPort.waitingOk PortStatus.afterReset
  cases np.status <;> rfl

/-- Settles O55: the writes of the recipe area and the lines of the power-on load are the only writes of the shadow, and both stay within
a line of it. -/
theorem stepKeepsShadowAndSum : Obligations.StepKeepsShadowAndSum := fun _ _ h hstep =>
  shadowOk_stepKeeps.step (fun _ _ _ => ⟨rfl, rfl, shadowSum_nil.symm, rfl, rfl⟩)
    (fun {s} h => (State.shadowOk_iff _).mpr ⟨h.recipe_ok, fun p => by cases p <;> exact NearPort.waitingOk_afterReset _⟩)
    (fun _ h _ _ => State.shadowOk_congr h (by simp) (.of_ports (by simp) (by simp))) h hstep

end Sys2Proof.Machine

/-! PROOFS. The invariants of the power-on load (R156, R158, R190) and of the ring indexes (R184 to R186, R189). -/

namespace Sys2Proof.Machine

/-! ## LOADING is left by the last answer of the load alone -/

theorem State.takeLanding_not_loading (s : State) (p : PortId) (w : Write) : (s.takeLanding p w).stroke.state ≠ .loading := by
  rw [State.takeLanding_eq]
  split
  · exact State.endStroke_not_loading _ _
  · split
    · exact State.endStroke_not_loading _ _
    · simp [State.landed_state]

theorem State.armingCheck_not_loading {s : State} (h : s.stroke.state = .arming) : s.armingCheck.stroke.state ≠ .loading := by
  unfold State.armingCheck
  split
  · exact State.enterIdle_not_loading _
  · simp [h]

theorem State.armingEnd_not_loading (s : State) : s.armingEnd.stroke.state ≠ .loading := by
  unfold State.armingEnd
  split
  · exact State.enterIdle_not_loading _
  · simp [State.armSuccess]

theorem State.hardChange_not_loading {s : State} (h : s.stroke.state ≠ .loading) : s.hardChange.stroke.state ≠ .loading := by
  unfold State.hardChange
  split
  · exact h
  · exact h
  · exact State.abandonArming_not_loading s
  · exact State.endStroke_not_loading s _
  · exact State.endStroke_not_loading s _
  · exact State.cutClosing_not_loading s _
  · exact h

theorem State.writeRecipe_not_loading {s : State} (h : s.stroke.state ≠ .loading) (off : Nat) (bs : List Beat) :
    (s.writeRecipe off bs).stroke.state ≠ .loading := by
  rw [State.writeRecipe_eq]
  split
  · exact State.hardChange_not_loading (by simpa using h)
  · simpa using h

theorem State.reportPin_stroke (s : State) (c : Nat) : (s.reportPin c).stroke = s.stroke := by
  unfold State.reportPin
  (repeat' split) <;> simp [State.queuePin, State.omitPin, State.walkOn, State.pauseWalk]

theorem State.nextSlot_stroke (s : State) : s.nextSlot.stroke = s.stroke ∨ s.nextSlot.stroke = { s.stroke with state := .reporting } := by
  unfold State.nextSlot
  split
  · exact .inl rfl
  · split
    · exact .inr (State.queueStrokeVerdict_stroke s _)
    · exact .inl rfl

theorem State.queueSlot_stroke (s : State) : s.queueSlot.stroke = s.stroke ∨ s.queueSlot.stroke = { s.stroke with state := .reporting } := by
  have h := State.nextSlot_stroke ((s.markReject (s.composeSlot s.walker.cursorSlot)).enqueue (.slot (s.composeSlot s.walker.cursorSlot)))
  simpa [State.queueSlot] using h

theorem State.reportSlot_stroke (s : State) : s.reportSlot.stroke = s.stroke ∨ s.reportSlot.stroke = { s.stroke with state := .reporting } := by
  unfold State.reportSlot
  split
  · exact s.queueSlot_stroke
  · exact .inl rfl

theorem State.walkStep_not_loading {s : State} (h : s.stroke.state ≠ .loading) : s.walkStep.stroke.state ≠ .loading := by
  unfold State.walkStep
  split
  · rw [State.reportPin_stroke]
    simpa using h
  · obtain he | he := s.reportSlot_stroke <;> simp [he, h]

theorem State.resumeWalk_not_loading {s : State} (h : s.stroke.state ≠ .loading) : s.resumeWalk.stroke.state ≠ .loading := by
  have hslot : s.queueSlot.stroke.state ≠ .loading := by
    obtain he | he := s.queueSlot_stroke <;> simp [he, h]
  unfold State.resumeWalk
  repeat' split
  all_goals first
    | exact hslot
    | simpa [State.queuePin, State.omitPin, State.walkOn] using h

theorem State.handOffOwed_state (s : State) : s.handOffOwed.stroke.state = s.stroke.state := by
  unfold State.handOffOwed
  split
  · rfl
  · split <;> simp

theorem State.freeHead_not_loading {s : State} (h : s.stroke.state ≠ .loading) (a : Word) (okay adv : Bool) :
    (s.freeHead a okay adv).stroke.state ≠ .loading := by
  unfold State.freeHead State.refillEntries
  simp only [State.takeUpHead_frame, State.handOffOwed_state]
  refine State.resumeWalk_not_loading ?_
  split <;> split <;> simpa [State.advanceProducer] using h

theorem State.endReporting_not_loading {s : State} (h : s.stroke.state ≠ .loading) (r : Record) :
    (s.endReporting r).stroke.state ≠ .loading := by
  unfold State.endReporting
  split
  · exact s.enterIdle_not_loading
  · exact h

theorem State.completionFlags_stroke (s : State) (r : Record) (okay : Bool) : (s.completionFlags r okay).stroke = s.stroke := by
  simp

theorem State.completeStroke_not_loading {s : State} {e : ReportEntry} {es : List ReportEntry} (h : s.stroke.state ≠ .loading)
    (hq : s.writer.queue = e :: es) (hs : e.record.isStroke = true) (a : Word) (okay adv first : Bool) :
    (s.completeRecord a okay adv first).stroke.state ≠ .loading := by
  have hf := State.freeHead_not_loading h a okay adv
  rw [State.completeRecord_of_stroke hq hs]
  split
  · exact State.endReporting_not_loading (State.notice_not_loading (by simpa using hf) _) _
  · exact State.notice_not_loading (by simpa using State.endReporting_not_loading hf _) _

/-! ## The indexes and the counts of the load -/

/-- The two ring indexes and the two counts of the power-on load are kept. -/
def State.SameIndexes (s t : State) : Prop :=
  t.writer.producer = s.writer.producer ∧ t.writer.consumer = s.writer.consumer ∧
    t.writer.loadIssued = s.writer.loadIssued ∧ t.writer.loadAnswered = s.writer.loadAnswered

theorem State.SameIndexes.trans {s t u : State} (a : s.SameIndexes t) (b : t.SameIndexes u) : s.SameIndexes u := by
  obtain ⟨a1, a2, a3, a4⟩ := a
  obtain ⟨b1, b2, b3, b4⟩ := b
  exact ⟨b1.trans a1, b2.trans a2, b3.trans a3, b4.trans a4⟩

theorem State.SameIndexes.of_writer {s t : State} (h : t.writer = s.writer) : s.SameIndexes t := by
  simp [State.SameIndexes, h]

theorem State.sameIndexes_landBeats (s : State) (o : Nat) (halted : Bool) (bs : List Beat) :
    s.SameIndexes (s.landBeats o halted bs).1 := .of_writer (by simp)

theorem State.sameIndexes_haltStroke (s : State) : s.SameIndexes s.haltStroke := by
  simp [State.SameIndexes, State.haltStroke, State.setHaltLatch]

theorem State.sameIndexes_landed (s : State) (p : PortId) (w : Write) : s.SameIndexes (s.landed p w) := by
  simp [State.SameIndexes, State.landed, State.landRun, State.startAcquiring, State.setSequence]

theorem State.sameIndexes_takeLanding (s : State) (p : PortId) (w : Write) : s.SameIndexes (s.takeLanding p w) := by
  have hland := s.sameIndexes_landed p w
  rw [State.takeLanding_eq]
  split
  · exact hland.trans (State.sameIndexes_haltStroke _)
  · split
    · exact hland.trans (by simp [State.SameIndexes])
    · exact hland

/-- A recipe write puts both indexes at 0 where the ring moves, and leaves them where it does not (R184). -/
theorem State.writeRecipe_indexes (s : State) (off : Nat) (bs : List Beat) :
    if ringMoved s.recipe.shadow (applyBeats s.recipe.shadow off bs) then
      (s.writeRecipe off bs).writer.producer = 0 ∧ (s.writeRecipe off bs).writer.consumer = 0 ∧
        (s.writeRecipe off bs).writer.loadIssued = s.writer.loadIssued ∧
        (s.writeRecipe off bs).writer.loadAnswered = s.writer.loadAnswered
    else s.SameIndexes (s.writeRecipe off bs) := by
  obtain ⟨hp, hc, hi, ha⟩ : (s.recipeStored off bs).SameIndexes (s.writeRecipe off bs) := by
    rw [State.writeRecipe_eq]
    split
    · simp [State.SameIndexes]
    · exact .of_writer rfl
  unfold State.SameIndexes
  rw [hp, hc, hi, ha]
  unfold State.recipeStored
  dsimp only
  split <;> simp [State.resetRing, State.markDirty]

/-- A beat of the command area leaves the indexes and the counts, but for a consumer index within the span (R186). -/
theorem State.controlBeat_indexes (s : State) (ob : Nat × Beat) :
    s.SameIndexes (s.controlBeat ob) ∨
      ∃ v, s.inSpan v = true ∧ (s.controlBeat ob).writer.consumer = v ∧
        (s.controlBeat ob).writer.producer = s.writer.producer ∧
        (s.controlBeat ob).writer.loadIssued = s.writer.loadIssued ∧
        (s.controlBeat ob).writer.loadAnswered = s.writer.loadAnswered := by
  have howner : s.SameIndexes (s.ownerActs ob.2).1 := by
    unfold State.ownerActs
    (repeat' split) <;> simp [State.SameIndexes, State.haltClear, State.forceHaltOn, State.forceHaltOff, State.forceRelease,
      State.release] <;> (repeat' split) <;> simp
  unfold State.controlBeat
  dsimp only
  split
  · left
    split <;> simp [State.SameIndexes, State.stagePlan]
  · split
    · left
      exact howner.trans (by simp [State.SameIndexes, State.command, State.markDirty])
    · split
      · left
        simp [State.SameIndexes, State.acknowledge]
      · split
        · left
          simp [State.SameIndexes, State.enableEvents]
        · split
          · left
            unfold State.protect
            dsimp only
            split <;> simp [State.SameIndexes]
          · split
            · unfold State.writeConsumer
              dsimp only
              split
              · next hv => exact .inr ⟨_, hv, by simp, by simp, by simp, by simp⟩
              · left
                simp [State.SameIndexes]
            · left
              simp [State.SameIndexes]

end Sys2Proof.Machine

namespace Sys2Proof.Machine

/-! ## The power-on load -/

/-- The load reads among the kinds of the transactions outstanding. -/
def State.loadKinds (s : State) : List TransactionKind := s.kinds.filter TransactionKind.isLoad

theorem State.loadsOut_eq (s : State) : s.loadsOut = s.loadKinds.length := s.length_filter_inflight _

theorem State.loadKinds_congr {s t : State} (h : t.arbiter = s.arbiter) : t.loadKinds = s.loadKinds := by
  rw [State.loadKinds, State.kinds_congr h, State.loadKinds]

/-- What keeps the load in order: the counts and the reads outstanding, LOADING left alone and its queue empty. -/
theorem State.loadOk_of {s t : State} (h : s.loadOk) (hi : t.writer.loadIssued = s.writer.loadIssued)
    (ha : t.writer.loadAnswered = s.writer.loadAnswered) (hk : t.loadKinds = s.loadKinds)
    (hl : s.stroke.state = .loading → t.stroke.state = .loading ∧ t.writer.queue = [])
    (hn : s.stroke.state ≠ .loading → t.stroke.state ≠ .loading) : t.loadOk := by
  obtain ⟨hsum, hmax, hload, hdone⟩ := h
  unfold State.loadOk
  rw [State.loadsOut_eq] at hsum ⊢
  rw [hi, ha, hk]
  refine ⟨hsum, hmax, fun hs => ?_, fun hs => hdone fun e => hs (hl e).1⟩
  have hwas : s.stroke.state = .loading := by
    by_contra e
    exact hn e hs
  exact ⟨(hload hwas).1, (hl hwas).2⟩

/-- Outside LOADING. -/
theorem State.loadOk_of_not_loading {s t : State} (h : s.loadOk) (hs : s.stroke.state ≠ .loading) (hx : s.SameIndexes t)
    (hk : t.loadKinds = s.loadKinds) (ht : t.stroke.state ≠ .loading) : t.loadOk :=
  State.loadOk_of h hx.2.2.1 hx.2.2.2 hk (absurd · hs) fun _ => ht

theorem State.loadOk.queue_nil {s : State} (h : s.loadOk) (hs : s.stroke.state = .loading) : s.writer.queue = [] := (h.2.2.1 hs).2

theorem State.loadOk.not_loading {s : State} (h : s.loadOk) {e : ReportEntry} {es : List ReportEntry} (hq : s.writer.queue = e :: es) :
    s.stroke.state ≠ .loading := fun hs => by simp [h.queue_nil hs] at hq

/-- Where neither the stroke state nor the report queue changes. -/
theorem State.loadOk_congr {s t : State} (h : s.loadOk) (hx : s.SameIndexes t) (hk : t.loadKinds = s.loadKinds)
    (hs : t.stroke.state = s.stroke.state) (hq : t.writer.queue = s.writer.queue) : t.loadOk :=
  State.loadOk_of h hx.2.2.1 hx.2.2.2 hk (fun e => ⟨hs.trans e, hq.trans (h.queue_nil e)⟩) fun e => by rwa [hs]

/-- A notice, in LOADING or not. -/
theorem State.loadOk_notice {s : State} (h : s.loadOk) (b : BitVec 9) : (s.notice b).loadOk := by
  by_cases hs : s.stroke.state = .arming
  · have hne : s.stroke.state ≠ .loading := by simp [hs]
    exact State.loadOk_of_not_loading h hne (by simp [State.SameIndexes]) (State.loadKinds_congr (by simp))
      (State.notice_not_loading hne b)
  · rwa [State.notice_of_not_arming hs]

theorem State.loadOk_raise {s : State} (h : s.loadOk) (f : EventFlag) : (s.raise f).loadOk :=
  State.loadOk_notice (State.loadOk_congr h (by simp [State.SameIndexes]) (State.loadKinds_congr (by simp)) (by simp) (by simp)) _

theorem State.loadOk_refuseWrite {s : State} (h : s.loadOk) (f : EventFlag) (a : Word) : (s.refuseWrite f a).loadOk := by
  have hq : (s.captureRefused a).writer.queue = s.writer.queue := by
    unfold State.captureRefused
    split <;> simp
  exact State.loadOk_raise (State.loadOk_congr h (by simp [State.SameIndexes]) (State.loadKinds_congr (by simp)) (by simp) hq) f

/-- A grant issues one more load read, in LOADING, or none (R190). -/
theorem State.grant_load (s : State) :
    (s.SameIndexes s.grant ∧ s.grant.loadKinds = s.loadKinds ∧ s.grant.writer.queue.map ReportEntry.record = s.records) ∨
      (s.stroke.state = .loading ∧ s.writer.loadIssued < Config.loadReads ∧ s.grant = (s.pointTo .report).issueLoad) := by
  obtain he | ⟨c, -, hr, he⟩ := s.grant_cases
  · exact .inl (by rw [he]; exact ⟨.of_writer rfl, rfl, rfl⟩)
  · rw [he, State.grantTo_eq]
    have hport : ∀ p c, s.SameIndexes ((s.pointTo c).issuePort p) ∧ ((s.pointTo c).issuePort p).loadKinds = s.loadKinds ∧
        ((s.pointTo c).issuePort p).writer.queue.map ReportEntry.record = s.records := fun p c => by
      refine ⟨.of_writer (by simp [State.pointTo]), ?_, by simp [State.pointTo, State.records]⟩
      obtain hk | hk := (s.pointTo c).issuePort_kinds p <;> simp [State.loadKinds, hk, TransactionKind.isLoad]
    cases c with
    | portA => exact .inl (hport .a _)
    | portS => exact .inl (hport .s _)
    | remap =>
      refine .inl ⟨.of_writer (by simp [State.pointTo]), ?_, by simp [State.pointTo, State.records]⟩
      obtain hk | hk := (s.pointTo .remap).issueBeat_kinds <;> simp [State.loadKinds, hk, TransactionKind.isLoad]
    | report =>
      obtain ⟨hl, hn, hi⟩ | ⟨-, -, ⟨hq, hi⟩ | hi⟩ := State.issueReport_cases (s := s.pointTo .report) hr
      · exact .inr ⟨hl, hn, hi⟩
      · left
        dsimp only
        rw [hi]
        have hw : (s.pointTo .report).issueRecord.loadKinds = s.loadKinds := by
          simp [State.loadKinds, State.issueRecord_kinds hq, TransactionKind.isLoad]
        refine ⟨?_, hw, ?_⟩ <;> unfold State.issueRecord State.headIssued <;> split <;>
          simp_all [State.SameIndexes, State.pointTo, State.issue, State.records]
      · left
        dsimp only
        rw [hi]
        refine ⟨by simp [State.SameIndexes, State.issueStatus, State.pointTo, State.issue], ?_,
          by simp [State.issueStatus, State.pointTo, State.issue, State.records]⟩
        simp [State.loadKinds, State.issueStatus_kinds, TransactionKind.isLoad]

theorem State.loadOk_grant {s : State} (h : s.loadOk) : s.grant.loadOk := by
  obtain ⟨hx, hk, hq⟩ | ⟨hl, hn, he⟩ := s.grant_load
  · refine State.loadOk_of h hx.2.2.1 hx.2.2.2 hk (fun e => ⟨by simpa using e, ?_⟩) (fun e => by simpa using e)
    simpa [State.records, h.queue_nil e] using hq
  · obtain ⟨hsum, -, hload, hdone⟩ := h
    rw [he]
    rw [State.loadsOut_eq] at hsum
    unfold State.loadOk
    rw [State.loadsOut_eq, State.loadKinds, State.issueLoad_kinds, State.pointTo_kinds, List.filter_append, List.length_append]
    refine ⟨?_, hn, fun _ => hload hl, fun hs => absurd hl hs⟩
    have hi : (s.pointTo .report).issueLoad.writer.loadIssued = s.writer.loadIssued + 1 := rfl
    have ha : (s.pointTo .report).issueLoad.writer.loadAnswered = s.writer.loadAnswered := rfl
    have hone : (List.filter TransactionKind.isLoad [.loadRead (s.pointTo .report).writer.loadIssued]).length = 1 := rfl
    rw [hi, ha, hone, hsum]
    rfl

theorem State.headIssued_indexes (s : State) : s.SameIndexes s.headIssued ∧ s.headIssued.records = s.records := by
  unfold State.headIssued
  split
  · exact ⟨.of_writer rfl, rfl⟩
  · next hq => simp [State.SameIndexes, State.records, hq]

theorem State.landingAccepted_state {s : State} {p : PortId} {w : Write} (h : s.landingAccepted p w = true) :
    s.stroke.state = .armed ∨ s.stroke.state = .acquiring := by
  simp only [State.landingAccepted, Bool.and_eq_true, Bool.or_eq_true, beq_iff_eq] at h
  exact h.1.1.2

theorem State.popAnswered_loadKinds {s : State} {t : Transaction} {ts : List Transaction} (hi : s.arbiter.inflight = t :: ts) :
    s.loadKinds = if t.kind.isLoad then t.kind :: s.popAnswered.loadKinds else s.popAnswered.loadKinds := by
  unfold State.loadKinds
  rw [State.popAnswered_kinds, State.kinds, hi, List.map_cons, List.filter_cons, List.tail_cons]

/-- The steps of `freeHead` but the producer's advance leave the indexes and the counts. -/
theorem State.freeHead_indexes (s : State) (a : Word) (okay adv : Bool) :
    (s.freeHead a okay adv).writer.consumer = s.writer.consumer ∧
      (s.freeHead a okay adv).writer.producer =
        (if adv then (s.writer.producer + 1) % s.ringCapacity else s.writer.producer) ∧
      (s.freeHead a okay adv).writer.loadIssued = s.writer.loadIssued ∧
      (s.freeHead a okay adv).writer.loadAnswered = s.writer.loadAnswered := by
  unfold State.freeHead
  simp only [State.refillEntries_keeps]
  cases okay <;> cases adv <;>
    simp [State.memoryError, State.advanceProducer, State.markDirty, State.ringCapacity]

theorem State.completeStroke_indexes {s : State} {e : ReportEntry} {es : List ReportEntry} (hq : s.writer.queue = e :: es)
    (hs : e.record.isStroke = true) (a : Word) (okay adv first : Bool) :
    (s.freeHead a okay adv).SameIndexes (s.completeRecord a okay adv first) := by
  rw [State.completeRecord_of_stroke hq hs]
  split <;> simp [State.SameIndexes]

theorem State.sameIndexes_completeStatus (s : State) (okay : Bool) : s.SameIndexes (s.completeStatus okay) := by
  unfold State.completeStatus
  dsimp only
  split <;> simp [State.SameIndexes]

theorem State.loadOk_completeStatus {s : State} (h : s.loadOk) (okay : Bool) : (s.completeStatus okay).loadOk := by
  unfold State.completeStatus
  dsimp only
  refine State.loadOk_notice (State.loadOk_congr h ?_ (State.loadKinds_congr ?_) ?_ ?_) _ <;> split <;>
    simp [State.SameIndexes]

/-- An answer to a load read before the end of the load: its line stored, its error raised, its answer counted (R156, R157). -/
def State.loadStored (s : State) (line : Nat) (okay : Bool) (data : LineData) : State :=
  let s1 := s.storeLine line (loadWords okay data)
  let s2 := if okay then s1 else (s1.memoryError (s.loadAddr line)).raise .memerr
  { s2 with writer := { s2.writer with loadAnswered := s2.writer.loadAnswered + 1 } }

theorem State.loadAnswer_eq (s : State) (line : Nat) (okay : Bool) (data : LineData) :
    s.loadAnswer line okay data = (s.loadStored line okay data).endLoad := rfl

theorem State.storeLine_writer (s : State) (line : Nat) (ws : List Word) :
    (s.storeLine line ws).writer = { s.writer with dirty := (s.storeLine line ws).writer.dirty } := by
  unfold State.storeLine
  split <;> simp

theorem State.storeLine_keeps (s : State) (line : Nat) (ws : List Word) :
    (s.storeLine line ws).writer.queue = s.writer.queue ∧ (s.storeLine line ws).writer.producer = s.writer.producer ∧
      (s.storeLine line ws).writer.consumer = s.writer.consumer ∧ (s.storeLine line ws).writer.loadIssued = s.writer.loadIssued ∧
      (s.storeLine line ws).writer.loadAnswered = s.writer.loadAnswered := by
  rw [State.storeLine_writer]
  exact ⟨rfl, rfl, rfl, rfl, rfl⟩

/-- What of the writer and of the stroke controller the answer to a load read in LOADING leaves, before the end of the load. -/
theorem State.loadStored_keeps {s : State} (hs : s.stroke.state = .loading) (line : Nat) (okay : Bool) (data : LineData) :
    (s.loadStored line okay data).stroke = s.stroke ∧ (s.loadStored line okay data).writer.queue = s.writer.queue ∧
      (s.loadStored line okay data).writer.producer = s.writer.producer ∧
      (s.loadStored line okay data).writer.consumer = s.writer.consumer ∧
      (s.loadStored line okay data).writer.loadIssued = s.writer.loadIssued ∧
      (s.loadStored line okay data).writer.loadAnswered = s.writer.loadAnswered + 1 := by
  have hraise : ∀ t : State, t.stroke = s.stroke → t.raise .memerr = t.setFlag .memerr := fun t ht =>
    State.raise_of_not_arming (by simp [ht, hs]) _
  unfold State.loadStored
  dsimp only
  split <;> simp [hraise, State.storeLine_keeps]

/-- The end of the load, outside ARMING: LOADING is left when the last read has been answered (R158). -/
theorem State.endLoad_cases {s : State} (hs : s.stroke.state = .loading) :
    (s.writer.loadAnswered ≠ Config.loadReads ∧ s.endLoad = s) ∨
      (s.writer.loadAnswered = Config.loadReads ∧ s.endLoad = ((s.setFlag .loaded).enter .idle).markDirty) := by
  unfold State.endLoad
  split
  · next hn => exact .inr ⟨hn, by rw [State.raise_of_not_arming (by simp [hs])]⟩
  · next hn => exact .inl ⟨hn, rfl⟩

/-- A load read is outstanding in LOADING alone (R158). -/
theorem State.loadOk.loading {s : State} (h : s.loadOk) {t : Transaction} {ts : List Transaction} {line : Nat}
    (hi : s.arbiter.inflight = t :: ts) (hk : t.kind = .loadRead line) : s.stroke.state = .loading := by
  obtain ⟨hsum, hmax, -, hdone⟩ := h
  by_contra hne
  have hload := State.popAnswered_loadKinds hi
  rw [if_pos (by rw [hk]; rfl)] at hload
  have hdone := hdone hne
  rw [State.loadsOut_eq, hload, List.length_cons] at hsum
  omega

theorem State.loadOk_loadAnswer {s : State} (h : s.loadOk) {t : Transaction} {ts : List Transaction} {line : Nat} {okay : Bool}
    {data : LineData} (hi : s.arbiter.inflight = t :: ts) (hk : t.kind = .loadRead line) :
    (s.popAnswered.loadAnswer line okay data).loadOk := by
  have hs := h.loading hi hk
  have hload := State.popAnswered_loadKinds hi
  rw [if_pos (by rw [hk]; rfl)] at hload
  have hkinds : (s.popAnswered.loadAnswer line okay data).loadKinds = s.popAnswered.loadKinds :=
    State.loadKinds_congr (by simp)
  obtain ⟨hst, hq, -, -, hiss, hans⟩ := State.loadStored_keeps (s := s.popAnswered) hs line okay data
  rw [show s.popAnswered.writer = s.writer from rfl] at hq hiss hans
  have hst' : (s.popAnswered.loadStored line okay data).stroke.state = .loading := by rw [hst]; exact hs
  obtain ⟨hsum, hmax, hin, -⟩ := h
  rw [State.loadsOut_eq, hload, List.length_cons] at hsum
  obtain ⟨hlt, hnil⟩ := hin hs
  unfold State.loadOk
  rw [State.loadsOut_eq, hkinds]
  obtain ⟨hn, he⟩ | ⟨hn, he⟩ := State.endLoad_cases hst'
  · rw [State.loadAnswer_eq, he, hiss, hans, hq]
    rw [hans] at hn
    exact ⟨by omega, hmax, fun _ => ⟨by omega, hnil⟩, fun e => absurd hst' e⟩
  · rw [State.loadAnswer_eq, he]
    rw [hans] at hn
    simp only [State.markDirty, State.enter_keeps, State.setFlag_keeps, hiss, hans, hn]
    exact ⟨by omega, hmax, fun e => by simp at e, fun _ => trivial⟩

theorem loadOk_stepKeeps : StepKeeps State.loadOk fun _ => True where
  ok_of_wellFormed _ := trivial
  ok_of_waiting _ _ := trivial
  setPort h _ := State.loadOk_congr h (.of_writer (by simp)) (State.loadKinds_congr (by simp)) (by simp) (by simp)
  resetLine h := h
  pressLine h := h
  withPending h := h
  prescaler h := h
  countDown h := h
  refuseWrite h := State.loadOk_refuseWrite h _ _
  writeRecipe {s w} h hs _ _ _ := by
    have hx := s.writeRecipe_indexes (w.addr.toNat - s.regionBase) w.beats
    refine State.loadOk_of h ?_ ?_ ?_ (absurd · hs) fun _ => State.writeRecipe_not_loading hs _ _
    · split at hx <;> exact hx.2.2.1
    · split at hx <;> exact hx.2.2.2
    · rw [State.loadKinds, State.writeRecipe_kinds, State.loadKinds]
  controlBeat {s ob} h hs := by
    have hk : (s.controlBeat ob).loadKinds = s.loadKinds := State.loadKinds_congr (by simp)
    obtain ⟨-, -, hi, ha⟩ | ⟨-, -, -, -, hi, ha⟩ := s.controlBeat_indexes ob <;>
      exact State.loadOk_of h hi ha hk (absurd · hs) fun _ => State.controlBeat_not_loading hs ob
  takeLanding h ha _ := State.loadOk_of_not_loading h
    (by obtain e | e := State.landingAccepted_state ha <;> simp [e]) (State.sameIndexes_takeLanding _ _ _)
    (State.loadKinds_congr (by simp)) (State.takeLanding_not_loading _ _ _)
  armingCheck {s} h hs := State.loadOk_of_not_loading h (by simp [hs])
    (by unfold State.armingCheck; split <;> simp [State.SameIndexes]) (State.loadKinds_congr (by simp))
    (State.armingCheck_not_loading hs)
  armingEnd {s} h hs := State.loadOk_of_not_loading h (by simp [hs])
    (by unfold State.armingEnd; split <;> simp [State.SameIndexes, State.armSuccess]) (State.loadKinds_congr (by simp))
    s.armingEnd_not_loading
  abandonArming {s} h hs := State.loadOk_of_not_loading h (by simp [hs]) (by simp [State.SameIndexes])
    (State.loadKinds_congr (by simp)) s.abandonArming_not_loading
  endStroke {s o} h hs := State.loadOk_of_not_loading h (by obtain e | e := hs <;> simp [e]) (by simp [State.SameIndexes])
    (State.loadKinds_congr (by simp)) (s.endStroke_not_loading o)
  walkStep {s} h hs _ := State.loadOk_of_not_loading h (by simp [hs]) (by simp [State.SameIndexes])
    (State.loadKinds_congr (by simp)) (State.walkStep_not_loading (by simp [hs]))
  grant h := State.loadOk_grant h
  headIssued {s} h := by
    obtain ⟨hx, hr⟩ := s.headIssued_indexes
    refine State.loadOk_of h hx.2.2.1 hx.2.2.2 (State.loadKinds_congr (by simp)) (fun e => ⟨by simpa using e, ?_⟩)
      (fun e => by simpa using e)
    simpa [State.records, h.queue_nil e] using hr
  freeHead {s _ _ a okay adv} h hq _ := by
    obtain ⟨-, -, hi, ha⟩ := s.freeHead_indexes a okay adv
    exact State.loadOk_of h hi ha (State.loadKinds_congr (by simp)) (absurd · (h.not_loading hq))
      fun e => State.freeHead_not_loading e _ _ _
  completionFlags {s r okay b} h := State.loadOk_notice (State.loadOk_congr h (by simp [State.SameIndexes])
    (State.loadKinds_congr (by simp)) (by simp) (by unfold State.completionFlags; (repeat' split) <;> simp)) b
  completeStroke {s _ _ a okay adv first} h hq hs := by
    obtain ⟨-, -, hi, ha⟩ := s.freeHead_indexes a okay adv
    obtain ⟨-, -, hi', ha'⟩ := State.completeStroke_indexes hq hs a okay adv first
    obtain ⟨-, -, -, -, -, -, harb⟩ := State.completeRecord_stroke_frame hq hs a okay adv first
    exact State.loadOk_of h (hi'.trans hi) (ha'.trans ha) (State.loadKinds_congr harb) (absurd · (h.not_loading hq))
      fun e => State.completeStroke_not_loading e hq hs _ _ _ _
  popAnswered {s _ _} h hi hk := State.loadOk_congr h (.of_writer rfl)
    (by rw [State.popAnswered_loadKinds hi, hk]; rfl) rfl rfl
  completeStatus h := State.loadOk_completeStatus h _
  loadAnswer h hi hk := State.loadOk_loadAnswer h hi hk

end Sys2Proof.Machine

/-! PROOFS. The ring indexes stay within the ring's capacity (R184 to R186, R189). -/

namespace Sys2Proof.Machine

theorem State.ringCapacity_pos (s : State) : 0 < s.ringCapacity := by
  unfold State.ringCapacity
  split
  · next h =>
    by_contra hz
    rw [Nat.eq_zero_of_not_pos hz] at h
    exact absurd h (by decide)
  · decide

theorem State.ringCapacity_congr {s t : State} (h : t.recipe.shadow.readWord 0x10 = s.recipe.shadow.readWord 0x10) :
    t.ringCapacity = s.ringCapacity := by
  have hf : ringCapacityField t.recipe.shadow = ringCapacityField s.recipe.shadow := congrArg BitVec.toNat h
  unfold State.ringCapacity
  rw [hf]

theorem State.ringOk_of_not_loading {t : State} (hl : t.loadOk) (hp : t.writer.producer < t.ringCapacity)
    (hc : t.writer.consumer < t.ringCapacity) (ht : t.stroke.state ≠ .loading) : t.ringOk :=
  ⟨hl, hp, hc, fun e => absurd e ht⟩

/-- Where neither the indexes nor the shadow change. -/
theorem State.ringOk_congr {s t : State} (h : s.ringOk) (hl : t.loadOk) (hx : s.SameIndexes t) (hr : t.recipe.shadow = s.recipe.shadow)
    (hn : s.stroke.state ≠ .loading → t.stroke.state ≠ .loading) : t.ringOk := by
  obtain ⟨-, hp, hc, hz⟩ := h
  obtain ⟨hp', hc', -, -⟩ := hx
  unfold State.ringOk
  rw [State.ringCapacity_congr (s := s) (by rw [hr]), hp', hc']
  exact ⟨hl, hp, hc, fun e => hz (by_contra fun hs => hn hs e)⟩

theorem State.ringOk_notice {s : State} (h : s.ringOk) (b : BitVec 9) : (s.notice b).ringOk :=
  State.ringOk_congr h (State.loadOk_notice h.1 b) (by simp [State.SameIndexes]) (by simp) fun e => State.notice_not_loading e b

/-- A recipe write moves the ring and empties it, or leaves its capacity and its indexes (R184). -/
theorem State.ringOk_writeRecipe {s : State} {off : Nat} {bs : List Beat} (h : s.ringOk) (hl : (s.writeRecipe off bs).loadOk) (hs : s.stroke.state ≠ .loading) :
    (s.writeRecipe off bs).ringOk := by
  have ht := State.writeRecipe_not_loading hs off bs
  have hx := s.writeRecipe_indexes off bs
  split at hx
  · obtain ⟨hp, hc, -, -⟩ := hx
    exact State.ringOk_of_not_loading hl (hp ▸ State.ringCapacity_pos _) (hc ▸ State.ringCapacity_pos _) ht
  · next hm =>
    obtain ⟨hp, hc, -, -⟩ := hx
    have hcap : (s.writeRecipe off bs).ringCapacity = s.ringCapacity := State.ringCapacity_congr (by
      rw [State.writeRecipe_recipe]
      simp only [ringMoved, Bool.or_eq_true, bne_iff_ne, not_or, not_not] at hm
      exact hm.2.symm)
    exact State.ringOk_of_not_loading hl (by rw [hp, hcap]; exact h.2.1) (by rw [hc, hcap]; exact h.2.2.1) ht

theorem State.ringOk_controlBeat {s : State} {ob : Nat × Beat} (h : s.ringOk) (hl : (s.controlBeat ob).loadOk) (hs : s.stroke.state ≠ .loading) :
    (s.controlBeat ob).ringOk := by
  have ht := State.controlBeat_not_loading hs ob
  have hcap : (s.controlBeat ob).ringCapacity = s.ringCapacity :=
    State.ringCapacity_congr (by rw [(s.controlBeat_shadow ob).1])
  obtain ⟨hp, hc, -, -⟩ | ⟨v, hv, hc, hp, -, -⟩ := s.controlBeat_indexes ob
  · exact State.ringOk_of_not_loading hl (by rw [hp, hcap]; exact h.2.1) (by rw [hc, hcap]; exact h.2.2.1) ht
  · have hlt : v < s.ringCapacity := by
      simp only [State.inSpan, Bool.and_eq_true, decide_eq_true_eq] at hv
      exact hv.1
    exact State.ringOk_of_not_loading hl (by rw [hp, hcap]; exact h.2.1) (by rw [hc, hcap]; exact hlt) ht

theorem State.ringOk_freeHead {s : State} (h : s.ringOk) {a : Word} {okay adv : Bool} (hl : (s.freeHead a okay adv).loadOk)
    (hs : s.stroke.state ≠ .loading) : (s.freeHead a okay adv).ringOk := by
  have hcap : (s.freeHead a okay adv).ringCapacity = s.ringCapacity := State.ringCapacity_congr (by simp)
  obtain ⟨hc, hp, -, -⟩ := s.freeHead_indexes a okay adv
  refine State.ringOk_of_not_loading hl ?_ (by rw [hc, hcap]; exact h.2.2.1) (State.freeHead_not_loading hs a okay adv)
  rw [hp, hcap]
  split
  · exact Nat.mod_lt _ s.ringCapacity_pos
  · exact h.2.1

/-- A load answer finds both indexes at 0, within any capacity (R156, R189). -/
theorem State.ringOk_loadAnswer {s : State} (h : s.ringOk) {t : Transaction} {ts : List Transaction} {line : Nat} {okay : Bool}
    {data : LineData} (hi : s.arbiter.inflight = t :: ts) (hk : t.kind = .loadRead line) :
    (s.popAnswered.loadAnswer line okay data).ringOk := by
  have hs := h.1.loading hi hk
  obtain ⟨hp0, hc0⟩ := h.2.2.2 hs
  obtain ⟨hst, -, hp, hc, -, -⟩ := State.loadStored_keeps (s := s.popAnswered) hs line okay data
  rw [show s.popAnswered.writer = s.writer from rfl] at hp hc
  have hzero : (s.popAnswered.loadAnswer line okay data).writer.producer = 0 ∧
      (s.popAnswered.loadAnswer line okay data).writer.consumer = 0 := by
    rw [State.loadAnswer_eq]
    obtain ⟨-, he⟩ | ⟨-, he⟩ := State.endLoad_cases (s := s.popAnswered.loadStored line okay data) (by rw [hst]; exact hs) <;>
      rw [he] <;> simp [State.markDirty, hp, hc, hp0, hc0]
  obtain ⟨hp', hc'⟩ := hzero
  refine ⟨State.loadOk_loadAnswer h.1 hi hk, ?_, ?_, fun _ => ⟨hp', hc'⟩⟩
  · rw [hp']
    exact State.ringCapacity_pos _
  · rw [hc']
    exact State.ringCapacity_pos _

theorem ringOk_stepKeeps : StepKeeps State.ringOk fun _ => True where
  ok_of_wellFormed _ := trivial
  ok_of_waiting _ _ := trivial
  setPort h hw := State.ringOk_congr h (loadOk_stepKeeps.setPort h.1 hw) (.of_writer (by simp)) (by simp) (by simp)
  resetLine h := h
  pressLine h := h
  withPending h := h
  prescaler h := h
  countDown h := h
  refuseWrite h := State.ringOk_congr h (loadOk_stepKeeps.refuseWrite h.1) (by simp [State.SameIndexes]) (by simp)
    fun e => State.raise_not_loading (by simpa using e) _
  writeRecipe h hs hw hr hoff := State.ringOk_writeRecipe h (loadOk_stepKeeps.writeRecipe h.1 hs hw hr hoff) hs
  controlBeat h hs := State.ringOk_controlBeat h (loadOk_stepKeeps.controlBeat h.1 hs) hs
  takeLanding h ha hr := State.ringOk_congr h (loadOk_stepKeeps.takeLanding h.1 ha hr) (State.sameIndexes_takeLanding _ _ _)
    (by simp) fun _ => State.takeLanding_not_loading _ _ _
  armingCheck h hs := State.ringOk_congr h (loadOk_stepKeeps.armingCheck h.1 hs)
    (by unfold State.armingCheck; split <;> simp [State.SameIndexes]) (by simp) fun _ => State.armingCheck_not_loading hs
  armingEnd h hs := State.ringOk_congr h (loadOk_stepKeeps.armingEnd h.1 hs)
    (by unfold State.armingEnd; split <;> simp [State.SameIndexes, State.armSuccess]) (by simp)
    fun _ => State.armingEnd_not_loading _
  abandonArming h hs := State.ringOk_congr h (loadOk_stepKeeps.abandonArming h.1 hs) (by simp [State.SameIndexes]) (by simp)
    fun _ => State.abandonArming_not_loading _
  endStroke h hs := State.ringOk_congr h (loadOk_stepKeeps.endStroke h.1 hs) (by simp [State.SameIndexes]) (by simp)
    fun _ => State.endStroke_not_loading _ _
  walkStep h hs hw := State.ringOk_congr h (loadOk_stepKeeps.walkStep h.1 hs hw) (by simp [State.SameIndexes]) (by simp)
    State.walkStep_not_loading
  grant {s} h := by
    have hl := loadOk_stepKeeps.grant h.1
    obtain ⟨hx, -⟩ | ⟨hs, -, he⟩ := s.grant_load
    · exact State.ringOk_congr h hl hx (by simp) (by simp)
    · obtain ⟨-, hp, hc, hz⟩ := h
      rw [he] at hl ⊢
      exact ⟨hl, hp, hc, hz⟩
  headIssued h := State.ringOk_congr h (loadOk_stepKeeps.headIssued h.1) (State.headIssued_indexes _).1 (by simp) (by simp)
  freeHead h hq hs := State.ringOk_freeHead h (loadOk_stepKeeps.freeHead h.1 hq hs) (h.1.not_loading hq)
  completionFlags {s r okay b} h := State.ringOk_congr h (loadOk_stepKeeps.completionFlags h.1) (by simp [State.SameIndexes])
    (by simp) fun e => State.notice_not_loading (by simpa using e) b
  completeStroke {s _ _ a okay adv first} h hq hs := by
    have hne := h.1.not_loading hq
    have hl := loadOk_stepKeeps.completeStroke (a := a) (okay := okay) (adv := adv) (first := first) h.1 hq hs
    have hcap : (s.completeRecord a okay adv first).ringCapacity = s.ringCapacity := by
      obtain ⟨-, -, hr, -⟩ := State.completeRecord_stroke_frame hq hs a okay adv first
      exact State.ringCapacity_congr (by rw [hr])
    obtain ⟨hp, hc, -, -⟩ := State.completeStroke_indexes hq hs a okay adv first
    obtain ⟨hc', hp', -, -⟩ := s.freeHead_indexes a okay adv
    refine State.ringOk_of_not_loading hl ?_ (by rw [hc, hc', hcap]; exact h.2.2.1)
      (State.completeStroke_not_loading hne hq hs _ _ _ _)
    rw [hp, hp', hcap]
    split
    · exact Nat.mod_lt _ s.ringCapacity_pos
    · exact h.2.1
  popAnswered h hi hk := State.ringOk_congr h (loadOk_stepKeeps.popAnswered h.1 hi hk) (.of_writer rfl) rfl id
  completeStatus {s okay} h := State.ringOk_congr h (loadOk_stepKeeps.completeStatus h.1) (s.sameIndexes_completeStatus okay)
    (by simp) fun e => by
      unfold State.completeStatus
      exact State.notice_not_loading (by split <;> simpa using e) _
  loadAnswer h hi hk := State.ringOk_loadAnswer h hi hk

theorem State.loadOk_powerOn (s : State) (b : Fin 8) (k : Fin 4) : (s.powerOn b k).loadOk :=
  ⟨rfl, Nat.zero_le _, fun _ => ⟨show 0 < Config.loadReads by decide, rfl⟩, fun e => absurd rfl e⟩

theorem State.warmReset_state (s : State) :
    s.warmReset.stroke.state = if s.stroke.state = .loading then .loading else .idle := rfl

theorem State.warmReset_not_loading {s : State} (h : s.stroke.state ≠ .loading) : s.warmReset.stroke.state ≠ .loading := by
  simp [State.warmReset_state, h]

theorem State.loadOk_warmReset {s : State} (h : s.loadOk) : s.warmReset.loadOk :=
  State.loadOk_of h rfl rfl (by rw [State.loadKinds, State.warmReset_kinds, State.loadKinds])
    (fun e => ⟨by simp [State.warmReset_state, e], rfl⟩) State.warmReset_not_loading

/-- The answer to a beat write reaches the stroke controller by its notice alone (R194). -/
theorem State.beatAnswered_eq (s : State) (okay : Bool) : s.beatAnswered okay = s ∨
    ∃ u : State, s.SameIndexes u ∧ u.arbiter = s.arbiter ∧ u.recipe = s.recipe ∧ u.walker = s.walker ∧
      u.writer.queue = s.writer.queue ∧ (∃ g, u.stroke = { s.stroke with gridWriteError := g }) ∧
      (s.beatAnswered okay = u ∨ s.beatAnswered okay = u.raise .memerr) := by
  unfold State.beatAnswered
  split
  · exact .inl rfl
  · next e es _ =>
    right
    dsimp only
    split
    · exact ⟨{ s with remap := { s.remap with queue := es } }, .of_writer rfl, rfl, rfl, rfl, rfl, ⟨_, rfl⟩, .inl rfl⟩
    · refine ⟨_, ?_, ?_, ?_, ?_, ?_, ?_, .inr rfl⟩
      · split <;> simp [State.SameIndexes, State.markDirty]
      · split <;> simp
      · split <;> simp
      · split <;> simp
      · split <;> simp [State.markDirty]
      · split
        · exact ⟨true, by simp⟩
        · exact ⟨s.stroke.gridWriteError, by simp⟩

theorem State.loadOk_beatAnswered {s : State} (h : s.loadOk) (okay : Bool) : (s.beatAnswered okay).loadOk := by
  obtain he | ⟨u, hx, ha, -, -, hq, ⟨g, hs⟩, he | he⟩ := s.beatAnswered_eq okay
  · rwa [he]
  all_goals
    have hu : u.loadOk := State.loadOk_congr h hx (State.loadKinds_congr ha) (by rw [hs]) hq
    rw [he]
  · exact hu
  · exact State.loadOk_raise hu _

theorem State.ringOk_beatAnswered {s : State} (h : s.ringOk) (okay : Bool) : (s.beatAnswered okay).ringOk := by
  have hl := State.loadOk_beatAnswered h.1 okay
  obtain he | ⟨u, hx, ha, hr, -, hq, ⟨g, hs⟩, he | he⟩ := s.beatAnswered_eq okay
  · rwa [he]
  · rw [he] at hl ⊢
    exact State.ringOk_congr h hl hx (by rw [hr]) (by rw [hs]; exact id)
  · rw [he] at hl ⊢
    refine State.ringOk_congr h hl (hx.trans (by simp [State.SameIndexes])) (by simp [hr]) fun e => State.raise_not_loading ?_ _
    rw [hs]
    exact e

/-- Settles O58: the consumer moves within the span, the producer modulo the capacity, and a recipe write that moves the ring puts both
at 0; in the load, which alone changes the capacity otherwise, they stand at 0. -/
theorem stepKeepsRingIndexes : Obligations.StepKeepsRingIndexes := fun _ _ h hstep =>
  ringOk_stepKeeps.step
    (fun b k _ => ⟨State.loadOk_powerOn _ b k, State.ringCapacity_pos _, State.ringCapacity_pos _, fun _ => ⟨rfl, rfl⟩⟩)
    (fun h => State.ringOk_congr h (State.loadOk_warmReset h.1) ⟨rfl, rfl, rfl, rfl⟩ rfl State.warmReset_not_loading)
    (fun okay h hi hk => State.ringOk_beatAnswered (ringOk_stepKeeps.popAnswered h hi (by rw [hk]; rfl)) okay) h hstep

end Sys2Proof.Machine

/-! PROOFS. The stroke controller, the closing walker and the report queue as one: the moves they make, and that every event is a run of
them. The invariants of the stroke controller (O60) and of the report queue (O57) are then kept by each move. -/

namespace Sys2Proof.Machine

/-! ## What the two invariants read -/

/-- What the invariants of the stroke controller and of the report queue read of a state. -/
structure Control where
  state : StrokeState
  arm : Option Nat
  stall : Option Nat
  pending : Option Plan
  outcome : Option StrokeOutcome
  walker : WalkerState
  held : Option HeldRecord
  owed : List RefusalRecord
  records : List Record

/-- The control of a state. -/
def State.control (s : State) : Control where
  state := s.stroke.state
  arm := s.stroke.armTimer
  stall := s.stroke.stallTimer
  pending := s.stroke.pendingPlan
  outcome := s.stroke.outcome
  walker := s.walker.state
  held := s.walker.held
  owed := s.stroke.owed
  records := s.records

theorem State.control_congr {s t : State} (hs : t.stroke = s.stroke) (hw : t.walker = s.walker)
    (hq : t.writer.queue = s.writer.queue) : t.control = s.control := by
  simp [State.control, State.records, hs, hw, hq]

/-- One move of the control. Each constructor is what one operation of the model does to it, under the condition on which it does it. -/
inductive Control.Move : Control → Control → Prop
  /-- A REFUSAL enters the free refusal entry (R87). -/
  | refusal (c : Control) (r : RefusalRecord) (hs : c.state ≠ .loading) (hf : c.records.filter Record.isRefusal = []) :
      Move c { c with records := c.records ++ [.refusal r] }
  /-- A REFUSAL is owed, the refusal entry being occupied (R87). -/
  | owe (c : Control) (r : RefusalRecord) (hf : c.records.filter Record.isRefusal ≠ []) : Move c { c with owed := c.owed ++ [r] }
  /-- The oldest owed REFUSAL enters the free refusal entry (R87). -/
  | handOff (c : Control) (r : RefusalRecord) (rs : List RefusalRecord) (hs : c.state ≠ .loading)
      (hf : c.records.filter Record.isRefusal = []) : Move c { c with records := c.records ++ [.refusal r], owed := rs }
  /-- An arming begins (R84). -/
  | beginArming (c : Control) (hs : c.state = .idle) : Move c { c with state := .arming }
  /-- An arming ends without a stroke, its REFUSAL queued or owed (R86, R87). -/
  | endArming (c : Control) (hs : c.state = .arming) (hr : c.records.filter Record.isRefusal ≠ []) : Move c { c with state := .idle, pending := none }
  /-- The pending plan is taken up or discarded (R86, R99). -/
  | dropPending (c : Control) : Move c { c with pending := none }
  /-- A plan becomes pending (R85). -/
  | pend (c : Control) (p : Plan) (hs : c.state ≠ .loading) (hi : c.state ≠ .idle) : Move c { c with pending := some p }
  /-- An arming succeeds (R90). -/
  | armed (c : Control) (n : Nat) (hs : c.state = .arming) :
      Move c { c with state := .armed, arm := some n, outcome := none, walker := .stopped, held := none }
  /-- A landing write is taken (R68, R94). -/
  | acquire (c : Control) (n : Nat) (hs : c.state = .armed ∨ c.state = .acquiring) :
      Move c { c with state := .acquiring, arm := none, stall := some n }
  /-- A stroke ends and the closing walk begins (R102, R109). -/
  | close (c : Control) (o : StrokeOutcome) (hs : c.state = .armed ∨ c.state = .acquiring) :
      Move c { c with state := .closing, arm := none, stall := none, outcome := some o, walker := .walking, held := none }
  /-- A stroke ends without the walk, or the walk is cut: up to four slot verdicts, then the STROKE_VERDICT (R102, R103, R120). -/
  | report (c : Control) (o : StrokeOutcome) (vs : List SlotVerdict) (v : StrokeVerdict)
      (hs : c.state = .armed ∨ c.state = .acquiring ∨ (c.state = .closing ∧ vs = [])) (hv : vs.length ≤ 4) :
      Move c { c with
        state := .reporting, arm := none, stall := none, outcome := some o, walker := .stopped, held := none
        records := c.records ++ (vs.map .slot ++ [.stroke v]) }
  /-- The walk comes to its end (R109). -/
  | walkEnds (c : Control) (v : StrokeVerdict) (hs : c.state = .closing) :
      Move c { c with state := .reporting, walker := .stopped, held := none, records := c.records ++ [.stroke v] }
  /-- The walk queues a record in a free general entry (R110, R116). -/
  | queueGeneral (c : Control) (r : Record) (hs : c.state = .closing) (hr : r.general = true)
      (hf : (c.records.filter Record.general).length < Config.generalEntries) : Move c { c with records := c.records ++ [r] }
  /-- The walk goes on (R110). -/
  | walkOn (c : Control) (hs : c.state = .closing) : Move c { c with walker := .walking, held := none }
  /-- The walk waits with a record due (R122). -/
  | pause (c : Control) (h : HeldRecord) (hs : c.state = .closing) : Move c { c with walker := .paused, held := some h }
  /-- Pin records are given up by ABORT (R126). -/
  | leave (c : Control) (rs : List Record) (hrs : rs.Sublist c.records)
      (hstroke : rs.filter Record.isStroke = c.records.filter Record.isStroke)
      (hrefusal : rs.filter Record.isRefusal = c.records.filter Record.isRefusal) : Move c { c with records := rs }
  /-- Time passes on the running timers (R92). -/
  | tick (c : Control) (a b : Option Nat) (ha : a = none ↔ c.arm = none) (hb : b = none ↔ c.stall = none) :
      Move c { c with arm := a, stall := b }

/-- A run of moves. -/
abbrev Control.Moves : Control → Control → Prop := Relation.ReflTransGen Control.Move

/-- The control of the one state leads to that of the other. -/
abbrev State.Moves (s t : State) : Prop := Control.Moves s.control t.control

theorem State.Moves.of_control {s t : State} (h : t.control = s.control) : s.Moves t := by
  unfold State.Moves
  rw [h]

theorem State.Moves.of_frame {s t : State} (hs : t.stroke = s.stroke) (hw : t.walker = s.walker)
    (hq : t.writer.queue = s.writer.queue) : s.Moves t := .of_control (State.control_congr hs hw hq)

theorem State.Moves.andThen {s t u : State} (a : s.Moves t) (h : u.control = t.control) : s.Moves u := a.trans (State.Moves.of_control h)

/-- One move, its result given by fields. -/
theorem State.Moves.one {s t : State} {c : Control} (h : s.control.Move c) (e : t.control = c) : s.Moves t := by
  unfold State.Moves
  rw [e]
  exact .single h

/-! ## The operations as runs of moves -/

theorem State.entries_eq (s : State) (p : Record → Bool) : s.entries p = (s.records.filter p).length := by
  simp [State.entries, State.records, List.filter_map, Function.comp_def]

theorem State.refusalOccupied_iff (s : State) : s.refusalOccupied = true ↔ s.records.filter Record.isRefusal ≠ [] := by
  rw [State.refusalOccupied, State.entries_eq, decide_eq_true_eq, List.length_pos_iff]

theorem State.moves_queueRefusal {s : State} (hs : s.stroke.state ≠ .loading) (r : RefusalRecord) : s.Moves (s.queueRefusal r) := by
  by_cases hocc : s.refusalOccupied = true
  · refine .one (.owe s.control r (s.refusalOccupied_iff.mp hocc)) ?_
    simp [State.queueRefusal, hocc, State.control, State.records]
  · have hf : s.records.filter Record.isRefusal = [] := by simpa using mt s.refusalOccupied_iff.mpr hocc
    refine .one (.refusal s.control r hs hf) ?_
    simp [State.queueRefusal, hocc, State.control, State.records_enqueue]

/-- The hand-off of an owed REFUSAL: into the free refusal entry, or not at all (R87). -/
theorem State.handOffOwed_control (s : State) : s.handOffOwed.control = s.control ∨
    ∃ r rs, s.records.filter Record.isRefusal = [] ∧
      s.handOffOwed.control = { s.control with records := s.records ++ [.refusal r], owed := rs } := by
  unfold State.handOffOwed
  split
  · exact .inl rfl
  · next r rs _ =>
    split
    · exact .inl rfl
    · next hocc =>
      exact .inr ⟨r, rs, by simpa using mt s.refusalOccupied_iff.mpr hocc, by simp [State.control, State.records]⟩

theorem State.moves_handOffOwed {s : State} (hs : s.stroke.state ≠ .loading) : s.Moves s.handOffOwed := by
  obtain he | ⟨r, rs, hf, he⟩ := s.handOffOwed_control
  · exact .of_control he
  · exact .one (.handOff s.control r rs hs hf) he

/-- The end of ARMING: to IDLE, or to ARMING with the pending plan (R86). -/
theorem State.moves_enterIdle {s : State} (hs : s.stroke.state = .arming) (hr : s.refusalOccupied = true) :
    s.Moves s.enterIdle := by
  cases hp : s.stroke.pendingPlan with
  | none =>
    refine .one (.endArming s.control hs (s.refusalOccupied_iff.mp hr)) ?_
    simp [State.control, State.enterIdle_stroke, hp, State.records]
  | some p =>
    refine .one (.dropPending s.control) ?_
    simp [State.control, State.enterIdle_stroke, hp, State.records, hs]

theorem State.moves_refuseArming {s : State} (hs : s.stroke.state = .arming) (r : RefusalRecord) : s.Moves (s.refuseArming r) :=
  (State.moves_queueRefusal (by simp [hs]) r).trans (State.moves_enterIdle (by rw [State.queueRefusal_state]; exact hs)
    (s.queueRefusal_occupied r))

theorem State.moves_abandonArming {s : State} (hs : s.stroke.state = .arming) : s.Moves s.abandonArming :=
  State.moves_refuseArming hs _

theorem State.moves_notice (s : State) (b : BitVec 9) : s.Moves (s.notice b) := by
  unfold State.notice
  split
  · next h => exact State.moves_abandonArming h.2
  · exact .refl

theorem State.moves_raise (s : State) (f : EventFlag) : s.Moves (s.raise f) :=
  (State.Moves.of_frame (by simp) (by simp) (by simp)).trans (State.moves_notice _ _)

theorem State.captureRefused_queue (s : State) (a : Word) : (s.captureRefused a).writer.queue = s.writer.queue := by
  unfold State.captureRefused
  split <;> simp

theorem State.moves_refuseWrite (s : State) (f : EventFlag) (a : Word) : s.Moves (s.refuseWrite f a) :=
  (State.Moves.of_frame (by simp) (by simp) (s.captureRefused_queue a)).trans (State.moves_raise _ _)

theorem State.moves_dropWaiting (s : State) (p : PortId) : s.Moves (s.dropWaiting p) := by
  unfold State.dropWaiting
  split
  · exact (State.Moves.of_frame (by simp) (by simp) (by simp)).trans (State.moves_refuseWrite _ _ _)
  all_goals exact .refl

theorem State.records_of_queue {s t : State} {rs : List ReportEntry} (h : t.writer.queue = s.writer.queue ++ rs) :
    t.records = s.records ++ rs.map ReportEntry.record := by
  simp [State.records, h]

theorem State.queueStrokeVerdict_walker (s : State) (o : StrokeOutcome) :
    (s.queueStrokeVerdict o).walker = { s.walker with state := .stopped, held := none } := by
  simp [State.queueStrokeVerdict, State.stopWalker]

/-- A stroke in ARMED or ACQUIRING ends (R95, R102, R120). -/
theorem State.moves_endStroke {s : State} (hs : s.stroke.state = .armed ∨ s.stroke.state = .acquiring) (o : StrokeOutcome) :
    s.Moves (s.endStroke o) := by
  refine Relation.ReflTransGen.trans ?_ ((State.moves_dropWaiting _ .a).trans (State.moves_dropWaiting _ .s))
  have hs3 : s.stroke.state = .armed ∨ s.stroke.state = .acquiring ∨ (s.stroke.state = .closing ∧ ([] : List SlotVerdict) = []) :=
    hs.imp_right .inl
  have hreport : ∀ u : State, u.stroke = (s.setOutcome o).stroke → u.records = s.records →
      s.Moves (u.queueStrokeVerdict o) := fun u hu hr => by
    refine State.Moves.one (.report s.control o [] (u.composeStroke o) hs3 (by simp)) ?_
    simp [State.control, State.queueStrokeVerdict_stroke, State.queueStrokeVerdict_walker, hu, State.setOutcome,
      State.records_of_queue (State.queueStrokeVerdict_queue u o), hr]
  split
  · exact hreport _ rfl rfl
  · split
    · let u := (s.setOutcome o).queueEmptySlots [0, 1, 2, 3]
      refine State.Moves.one (.report s.control o (([0, 1, 2, 3].filter fun n => Plan.active s.stroke.latched n).map
        (s.setOutcome o).composeEmptySlot) (u.composeStroke o) (hs.imp_right .inl)
        (by simpa using List.length_filter_le _ [0, 1, 2, 3])) ?_
      simp [State.control, State.queueStrokeVerdict_stroke, State.queueStrokeVerdict_walker, State.records,
        State.queueEmptySlots_queue, State.setOutcome, u, Function.comp_def]
    · unfold State.startWalk
      split
      · refine State.Moves.one (.close s.control o hs) ?_
        simp [State.control, State.setOutcome, State.records]
      · exact hreport _ rfl rfl

theorem State.moves_cutClosing {s : State} (hs : s.stroke.state = .closing) (o : StrokeOutcome) : s.Moves (s.cutClosing o) := by
  refine State.Moves.one (.report s.control o [] ((s.setOutcome o).composeStroke o) (.inr (.inr ⟨hs, rfl⟩)) (by simp)) ?_
  simp [State.control, State.cutClosing, State.queueStrokeVerdict_stroke, State.queueStrokeVerdict_walker, State.setOutcome,
    State.records]

theorem State.moves_hardChange (s : State) : s.Moves s.hardChange := by
  unfold State.hardChange
  split
  case h_3 h => exact State.moves_abandonArming h
  case h_4 h => exact State.moves_endStroke (.inl h) _
  case h_5 h => exact State.moves_endStroke (.inr h) _
  case h_6 h => exact State.moves_cutClosing h _
  all_goals exact .refl

theorem State.moves_discardPending {s : State} (hs : s.stroke.state ≠ .loading) : s.Moves s.discardPending := by
  unfold State.discardPending
  split
  · exact .refl
  · refine Relation.ReflTransGen.trans ?_ (State.moves_queueRefusal (by simpa [State.markDirty] using hs) _)
    exact State.Moves.one (.dropPending s.control) rfl

theorem State.moves_takeUpHead (s : State) : s.Moves s.takeUpHead := .of_frame (by simp) (by simp) (by simp)

theorem ReportEntry.not_discardable {e : ReportEntry} (h : e.record.isPin = false) : e.discardable = false := by
  simp [ReportEntry.discardable, h]

/-- What the discard keeps of a class without pin records. -/
theorem discard_filter (q : List ReportEntry) {p : Record → Bool} (hp : ∀ r, p r = true → r.isPin = false) :
    ((q.filter fun e => !e.discardable).map ReportEntry.record).filter p = (q.map ReportEntry.record).filter p := by
  rw [List.filter_map, List.filter_map, List.filter_filter]
  congr 1
  refine List.filter_congr fun e _ => ?_
  by_cases h : p e.record = true
  · simp [h, ReportEntry.not_discardable (hp _ h)]
  · simp [h]

theorem State.moves_discardPins (s : State) : s.Moves s.discardPins := by
  let kept := s.writer.queue.filter fun e => !e.discardable
  have hmove := Control.Move.leave s.control (kept.map ReportEntry.record) (List.filter_sublist.map _)
    (discard_filter _ fun r => by cases r <;> simp [Record.isStroke, Record.isPin])
    (discard_filter _ fun r => by cases r <;> simp [Record.isRefusal, Record.isPin])
  have hkept : ∀ (m : Bool) (n : Nat), s.Moves { s with
      writer := { s.writer with queue := kept, waitMarked := m }, walker := { s.walker with omitted := n } } :=
    fun _ _ => State.Moves.one hmove rfl
  unfold State.discardPins
  dsimp only
  split <;> split
  · exact (hkept _ _).trans (State.moves_takeUpHead _)
  · exact hkept _ _
  · exact (hkept _ _).trans (State.moves_takeUpHead _)
  · exact hkept _ _

theorem State.discardPending_occupied {s : State} (h : s.refusalOccupied = true) : s.discardPending.refusalOccupied = true := by
  unfold State.discardPending
  split
  · exact h
  · exact State.queueRefusal_occupied _ _

/-- ABORT, by the stroke state (R99). -/
theorem State.moves_abort (s : State) : s.Moves s.abort.1 := by
  have hdiscard : ∀ {u : State}, s.Moves u → u.stroke.state ≠ .loading → s.Moves u.discardPending :=
    fun hu hl => hu.trans (State.moves_discardPending hl)
  unfold State.abort
  split
  case h_1 | h_2 => exact .refl
  case h_3 h =>
    let r := s.queueRefusal (s.refusalOf .abandoned)
    have hr : r.stroke.state = .arming := by rw [State.queueRefusal_state, h]
    have hd : r.discardPending.stroke.state = .arming := by rw [State.discardPending_state, hr]
    have hmoves : s.Moves r.discardPending := hdiscard (State.moves_queueRefusal (by simp [h]) _) (by simp [hr])
    have hocc := r.discardPending.refusalOccupied_iff.mp (State.discardPending_occupied (s.queueRefusal_occupied _))
    refine hmoves.trans (State.Moves.one (.endArming _ hd hocc) ?_)
    have hpend : r.discardPending.stroke.pendingPlan = none := by
      unfold State.discardPending
      split
      · next e => exact e
      · simp [State.queueRefusal_stroke, State.markDirty]
    simp [State.control, State.records, hpend, r]
  case h_4 h => exact hdiscard (State.moves_endStroke (.inl h) _) (State.endStroke_not_loading _ _)
  case h_5 h => exact hdiscard (State.moves_endStroke (.inr h) _) (State.endStroke_not_loading _ _)
  case h_6 h => exact hdiscard (State.moves_cutClosing h _) (State.cutClosing_not_loading _ _)
  case h_7 h => exact hdiscard s.moves_discardPins (by simp [h])

theorem State.moves_pendPlan {s : State} (hs : s.stroke.state ≠ .loading) (hi : s.stroke.state ≠ .idle) : s.Moves s.pendPlan := by
  have hpend : s.Moves ({ s with stroke := { s.stroke with pendingPlan := some s.recipe.staging } }).markDirty :=
    State.Moves.one (.pend s.control s.recipe.staging hs hi) rfl
  unfold State.pendPlan
  dsimp only
  split
  · exact hpend
  · exact (hpend.trans (State.moves_queueRefusal (by simpa [State.markDirty] using hs) _)).trans (State.moves_notice _ _)

theorem State.moves_armRequest (s : State) : s.Moves s.armRequest := by
  unfold State.armRequest
  split
  case h_1 => exact .refl
  case h_2 h => exact State.Moves.one (.beginArming s.control h) (by simp [State.control, State.beginArming, State.records, State.markDirty])
  all_goals exact State.moves_pendPlan (by simp [*]) (by simp [*])

theorem State.moves_ownerActs (s : State) (b : Beat) : s.Moves (s.ownerActs b).1 := by
  unfold State.ownerActs
  split
  · split
    · exact s.moves_abort
    all_goals
      refine .of_frame (by simp) (by simp) ?_
      simp [State.haltClear, State.forceHaltOn, State.forceHaltOff, State.forceRelease, State.release, State.setProtection]
    all_goals (repeat' split)
    all_goals simp
  · exact .refl

theorem State.moves_controlBeat (s : State) (ob : Nat × Beat) : s.Moves (s.controlBeat ob) := by
  unfold State.controlBeat
  dsimp only
  split
  · have hstage : s.Moves (s.stagePlan ob.1 ob.2) := .of_frame rfl rfl rfl
    split
    · exact hstage.trans (State.moves_armRequest _)
    · exact hstage
  · split
    · exact (s.moves_ownerActs ob.2).trans (State.Moves.of_control rfl)
    · split
      · exact .of_frame (by simp) (by simp) (by simp [State.acknowledge])
      · split
        · exact .of_frame (by simp) (by simp) (by simp [State.enableEvents])
        · split
          · refine .of_frame (by simp) (by simp) ?_
            unfold State.protect
            dsimp only
            split <;> simp [State.setProtection]
          · split
            · unfold State.writeConsumer
              dsimp only
              split
              · exact .of_frame (by simp) (by simp) (by simp)
              · exact State.moves_raise _ _
            · exact .refl

theorem State.moves_writeRecipe (s : State) (off : Nat) (bs : List Beat) : s.Moves (s.writeRecipe off bs) := by
  have hstored : s.Moves (s.recipeStored off bs) := .of_frame (by simp) (by simp) (by
    unfold State.recipeStored
    dsimp only
    split <;> simp [State.resetRing, State.markDirty])
  rw [State.writeRecipe_eq]
  split
  · exact hstored.trans (State.moves_hardChange _)
  · exact hstored

theorem State.moves_haltStroke {s : State} (hs : s.stroke.state = .acquiring) : s.Moves s.haltStroke := by
  have hraise : ((s.setHaltLatch true).raise .halt) = (s.setHaltLatch true).setFlag .halt :=
    State.raise_of_not_arming (by simp [hs]) _
  unfold State.haltStroke
  rw [hraise]
  exact (State.Moves.of_frame (by simp) (by simp) (by simp)).trans (State.moves_endStroke (.inr (by simp [hs])) _)

theorem State.moves_takeLanding {s : State} {p : PortId} {w : Write} (ha : s.landingAccepted p w = true) :
    s.Moves (s.takeLanding p w) := by
  have hs := State.landingAccepted_state ha
  have hland : s.Moves (s.landed p w) := by
    refine State.Moves.one (.acquire s.control (Plan.stallLimit s.stroke.latched) hs) ?_
    simp [State.control, State.landed, State.landRun, State.setSequence, State.startAcquiring, State.records]
  rw [State.takeLanding_eq]
  split
  · exact hland.trans (State.moves_haltStroke (s.landed_state p w))
  · split
    · exact hland.trans (State.moves_endStroke (.inr (s.landed_state p w)) _)
    · exact hland

theorem State.moves_armingCheck {s : State} (hs : s.stroke.state = .arming) : s.Moves s.armingCheck := by
  unfold State.armingCheck
  split
  · exact State.moves_refuseArming hs _
  · exact .of_control rfl

theorem State.moves_armingEnd {s : State} (hs : s.stroke.state = .arming) : s.Moves s.armingEnd := by
  unfold State.armingEnd
  split
  · exact State.moves_refuseArming hs _
  · refine State.Moves.one (.armed s.control (Plan.armLimit s.stroke.latched * 1000) hs) ?_
    simp [State.control, State.armSuccess, State.records]

/-! ### The closing walk -/

theorem State.generalFree_iff (s : State) : s.generalFree = true ↔
    (s.records.filter Record.general).length < Config.generalEntries := by
  rw [State.generalFree, State.entries_eq, decide_eq_true_eq]

theorem State.moves_enqueueGeneral {s : State} (hs : s.stroke.state = .closing) (hf : s.generalFree = true) {r : Record}
    (hr : r.general = true) : s.Moves (s.enqueue r) :=
  State.Moves.one (.queueGeneral s.control r hs hr (s.generalFree_iff.mp hf)) (by simp [State.control, State.records])

theorem State.moves_walkOn {s : State} (hs : s.stroke.state = .closing) (c : Nat) : s.Moves (s.walkOn c) :=
  State.Moves.one (.walkOn s.control hs) rfl

theorem State.moves_queuePin {s : State} (hs : s.stroke.state = .closing) (hf : s.generalFree = true) (c : Nat) :
    s.Moves (s.queuePin c) :=
  (State.moves_enqueueGeneral hs hf rfl).trans (State.moves_walkOn (by simpa using hs) _)

theorem State.moves_omitPin {s : State} (hs : s.stroke.state = .closing) (c : Nat) : s.Moves (s.omitPin c) :=
  State.Moves.one (.walkOn s.control hs) rfl

theorem State.moves_pauseWalk {s : State} (hs : s.stroke.state = .closing) (c : Nat) (h : HeldRecord) : s.Moves (s.pauseWalk c h) :=
  State.Moves.one (.pause s.control h hs) rfl

theorem State.moves_nextSlot {s : State} (hs : s.stroke.state = .closing) : s.Moves s.nextSlot := by
  unfold State.nextSlot
  split
  · exact State.Moves.one (.walkOn s.control hs) rfl
  · split
    · next o _ =>
      refine State.Moves.one (.walkEnds s.control (s.composeStroke o) hs) ?_
      simp [State.control, State.queueStrokeVerdict_stroke, State.queueStrokeVerdict_walker, State.records]
    · exact .refl

theorem State.moves_queueSlot {s : State} (hs : s.stroke.state = .closing) (hf : s.generalFree = true) : s.Moves s.queueSlot := by
  let v := s.composeSlot s.walker.cursorSlot
  have hmark : s.Moves (s.markReject v) := by
    refine .of_control ?_
    unfold State.markReject
    split <;> rfl
  have hfree : (s.markReject v).generalFree = true := by
    rw [State.generalFree, State.entries_congr (s := s) (by simp)]
    exact hf
  exact (hmark.trans (State.moves_enqueueGeneral (r := .slot v) (by simpa using hs) hfree rfl)).trans
    (State.moves_nextSlot (by simpa using hs))

theorem State.moves_finalCheck (s : State) (c : Nat) : s.Moves (s.finalCheck c) := .of_frame (by simp) (by simp) (by simp)

theorem State.moves_reportPin {s : State} (hs : s.stroke.state = .closing) (c : Nat) : s.Moves (s.reportPin c) := by
  unfold State.reportPin
  split
  · split
    · next hf => exact State.moves_queuePin hs hf c
    · split
      · exact State.moves_omitPin hs c
      · exact State.moves_pauseWalk hs c _
  · exact State.moves_walkOn hs _

theorem State.moves_walkStep {s : State} (hs : s.stroke.state = .closing) : s.Moves s.walkStep := by
  unfold State.walkStep
  split
  · next c _ => exact (s.moves_finalCheck c).trans (State.moves_reportPin (by simpa using hs) c)
  · unfold State.reportSlot
    split
    · next hf => exact State.moves_queueSlot hs hf
    · exact State.moves_pauseWalk hs _ _

theorem State.moves_resumeWalk {s : State} (hs : s.walker.state = .paused → s.stroke.state = .closing) : s.Moves s.resumeWalk := by
  unfold State.resumeWalk
  split
  · next hp =>
    have hc := hs hp
    split
    · split
      · next hf => exact State.moves_queuePin hc hf _
      · split
        · exact State.moves_omitPin hc _
        · exact .refl
    · split
      · next hf => exact State.moves_queueSlot hc hf
      · exact .refl
    · exact .refl
  · exact .refl

/-! ### Port M and the completion of a record -/

theorem State.moves_headIssued (s : State) : s.Moves s.headIssued := by
  refine .of_control ?_
  unfold State.headIssued
  split
  · rfl
  · next hq => simp [State.control, State.records, hq]

theorem State.grant_control (s : State) : s.grant.control = s.control := by
  have hrec : s.grant.records = s.records := by
    obtain ⟨-, -, hr⟩ | ⟨-, -, he⟩ := s.grant_load
    · exact hr
    · rw [he]
      rfl
  have hwalk : s.grant.walker.state = s.walker.state ∧ s.grant.walker.held = s.walker.held := by
    obtain he | ⟨c, -, hr, he⟩ := s.grant_cases
    · simp [he]
    · rw [he, State.grantTo_eq]
      cases c with
      | portA | portS | remap => simp [State.pointTo]
      | report =>
        obtain ⟨-, -, hi⟩ | ⟨-, -, ⟨-, hi⟩ | hi⟩ := State.issueReport_cases (s := s.pointTo .report) hr <;> dsimp only <;> rw [hi]
        · exact ⟨rfl, rfl⟩
        · unfold State.issueRecord State.headIssued
          split <;> exact ⟨rfl, rfl⟩
        · exact ⟨rfl, rfl⟩
  simp [State.control, hrec, hwalk]

/-- The head of the report queue has left it, its ring index advanced and its error kept (R183, R188). -/
def State.headGone (s : State) (a : Word) (okay adv : Bool) : State :=
  let s1 := { s with writer := { s.writer with queue := s.writer.queue.tail, waitMarked := false } }
  let s2 := (if adv then s1.advanceProducer else s1).markDirty
  if okay then s2 else s2.memoryError a

theorem State.freeHead_eq (s : State) (a : Word) (okay adv : Bool) : s.freeHead a okay adv = (s.headGone a okay adv).refillEntries := rfl

@[simp] theorem State.headGone_frame (s : State) (a : Word) (okay adv : Bool) :
    (s.headGone a okay adv).stroke = s.stroke ∧ (s.headGone a okay adv).walker = s.walker ∧
      (s.headGone a okay adv).writer.queue = s.writer.queue.tail := by
  unfold State.headGone
  dsimp only
  split <;> split <;> simp [State.markDirty]

theorem State.headGone_control (s : State) (a : Word) (okay adv : Bool) :
    (s.headGone a okay adv).control = { s.control with records := s.records.tail } := by
  simp [State.control, State.records]

theorem State.moves_refillEntries {s : State} (hs : s.stroke.state ≠ .loading)
    (hw : s.walker.state = .paused → s.stroke.state = .closing) : s.Moves s.refillEntries :=
  ((State.moves_resumeWalk hw).trans (State.moves_handOffOwed (State.resumeWalk_not_loading hs))).trans (State.moves_takeUpHead _)

theorem State.handOffOwed_owedOk (s : State) : s.handOffOwed.owedOk := by
  unfold State.handOffOwed
  split
  · next h => exact fun e => absurd h e
  · split
    · next hocc => exact fun _ => hocc
    · intro _
      rw [State.refusalOccupied, State.entries_enqueue]
      simp [Record.isRefusal]

/-- Freeing a head leaves no REFUSAL owed behind a free refusal entry (R87). -/
theorem State.freeHead_owedOk (s : State) (a : Word) (okay adv : Bool) : (s.freeHead a okay adv).owedOk := by
  have h := State.handOffOwed_owedOk (s.headGone a okay adv).resumeWalk
  unfold State.owedOk State.refusalOccupied at h ⊢
  rw [State.freeHead_eq, State.refillEntries, State.entries_congr (State.takeUpHead_queue _)]
  simpa using h

theorem State.moves_completionFlags (s : State) (r : Record) (okay : Bool) (b : BitVec 9) :
    s.Moves ((s.completionFlags r okay).notice b) := by
  refine (State.Moves.of_frame (by simp) (by simp) ?_).trans (State.moves_notice _ b)
  unfold State.completionFlags
  (repeat' split) <;> simp

theorem State.enterIdle_control (s : State) : s.enterIdle.control = { s.control with
    state := if s.stroke.pendingPlan = none then .idle else .arming, pending := none } := by
  cases hp : s.stroke.pendingPlan <;> simp [State.control, State.enterIdle_stroke, hp, State.records]

theorem State.moves_completeStatus (s : State) (okay : Bool) : s.Moves (s.completeStatus okay) := by
  unfold State.completeStatus
  refine (State.Moves.of_frame ?_ ?_ ?_).trans (State.moves_notice _ _) <;> split <;> simp

theorem State.moves_countDown (s : State) : s.Moves { s with stroke := { s.stroke with
    armTimer := countDown s.stroke.armTimer, stallTimer := countDown s.stroke.stallTimer } } := by
  have hnone : ∀ x : Option Nat, countDown x = none ↔ x = none := fun x => by cases x <;> simp [countDown]
  exact State.Moves.one (.tick s.control _ _ (hnone _) (hnone _)) rfl

theorem State.moves_beatAnswered (s : State) (okay : Bool) : s.Moves (s.beatAnswered okay) := by
  obtain he | ⟨u, -, -, -, hw, hq, ⟨g, hs⟩, he⟩ := s.beatAnswered_eq okay
  · rw [he]
  · have hu : s.Moves u := .of_control (by simp [State.control, State.records, hs, hw, hq])
    obtain he | he := he <;> rw [he]
    · exact hu
    · exact hu.trans (State.moves_raise u _)

end Sys2Proof.Machine

namespace Sys2Proof.Machine

/-! ## The invariant of the stroke controller, of the control alone -/

/-- The timers, the pending plan, the walker and the outcome, by the stroke state (R85, R92, R93, R95, R108). -/
def Control.strokeFit (c : Control) : Prop :=
  (c.arm ≠ none ↔ c.state = .armed) ∧ (c.stall ≠ none ↔ c.state = .acquiring) ∧
    (c.pending ≠ none → c.state ≠ .loading ∧ c.state ≠ .idle) ∧ (c.walker ≠ .stopped ↔ c.state = .closing) ∧
    (c.walker = .paused ↔ c.held ≠ none) ∧ (c.state = .closing ∨ c.state = .reporting → c.outcome ≠ none)

theorem State.strokeOk_iff (s : State) : s.strokeOk ↔ s.loadOk ∧ s.control.strokeFit := Iff.rfl

theorem Control.strokeFit.move {c d : Control} (h : c.strokeFit) (m : c.Move d) : d.strokeFit := by
  obtain ⟨harm, hstall, hpend, hwalk, hheld, hout⟩ := h
  cases m with
  | refusal | owe | handOff | queueGeneral | leave => exact ⟨harm, hstall, hpend, hwalk, hheld, hout⟩
  | tick a b ha hb => exact ⟨by simpa [ha] using harm, by simpa [hb] using hstall, hpend, hwalk, hheld, hout⟩
  | dropPending => exact ⟨harm, hstall, fun e => absurd rfl e, hwalk, hheld, hout⟩
  | pend p hs hi => exact ⟨harm, hstall, fun _ => ⟨hs, hi⟩, hwalk, hheld, hout⟩
  | acquire n hs =>
    have hst : c.walker = .stopped := by
      by_contra e
      simp [hwalk.mp e] at hs
    simp_all [Control.strokeFit]
  | beginArming hs | endArming hs | armed n hs | walkEnds v hs | walkOn hs | pause x hs => simp_all [Control.strokeFit]
  | close o hs => simp_all [Control.strokeFit]
  | report o vs v hs hv => simp_all [Control.strokeFit]

/-! ## The invariants of the report queue, of the control alone -/

/-- A refusal is owed only while the refusal entry is occupied (R87). -/
def Control.owedFit (c : Control) : Prop := c.owed ≠ [] → c.records.filter Record.isRefusal ≠ []

theorem State.owedOk_iff (s : State) : s.owedOk ↔ s.control.owedFit := by
  unfold State.owedOk
  rw [State.refusalOccupied_iff]
  rfl

theorem Control.owedFit.move {c d : Control} (h : c.owedFit) (m : c.Move d) : d.owedFit := by
  unfold Control.owedFit at h ⊢
  cases m with
  | refusal | handOff => simp [Record.isRefusal]
  | owe r hf => exact fun _ => hf
  | report | walkEnds | queueGeneral => exact fun e => by rw [List.filter_append]; exact List.append_ne_nil_of_left_ne_nil (h e) _
  | leave rs hrs hstroke hrefusal => rwa [hrefusal]
  | _ => exact h

/-- The number of records of a class. -/
def Control.entries (c : Control) (p : Record → Bool) : Nat := c.records.countP p

/-- No record of a general entry stands behind a STROKE_VERDICT (R182). -/
def Control.verdictLast (c : Control) : Prop := c.records.Pairwise fun x y => x.isStroke = true → y.general = false

/-- The records of the queue by class and stroke state, with the walker at work in CLOSING only (R104, R182). -/
def Control.queueFit (c : Control) : Prop :=
  (c.walker ≠ .stopped → c.state = .closing) ∧ c.entries Record.general ≤ Config.generalEntries ∧
    c.entries Record.isRefusal ≤ 1 ∧
    match c.state with
    | .loading => c.records = []
    | .idle => c.entries Record.general = 0 ∧ c.entries Record.isStroke = 0
    | .arming => c.entries Record.general = 0 ∧ c.entries Record.isStroke = 0
    | .armed => c.entries Record.general = 0 ∧ c.entries Record.isStroke = 0
    | .acquiring => c.entries Record.general = 0 ∧ c.entries Record.isStroke = 0
    | .closing => c.entries Record.isStroke = 0
    | .reporting => c.entries Record.isStroke = 1 ∧ c.verdictLast

theorem verdictLast_iff (q : List ReportEntry) : verdictLast q = true ↔
    (q.map ReportEntry.record).Pairwise fun x y => x.isStroke = true → y.general = false := by
  induction q with
  | nil => simp [verdictLast]
  | cons e es ih =>
    rw [List.map_cons, List.pairwise_cons, ← ih]
    cases hs : e.record.isStroke with
    | false => simp [verdictLast, hs]
    | true =>
      have hnone : ∀ {l : List ReportEntry}, (∀ y ∈ l, y.record.general = false) → verdictLast l = true := fun hl => by
        rw [verdictLast, List.all_eq_true]
        exact fun y hy => by simpa using hl y ((List.dropWhile_sublist _).subset hy)
      have he : e.record.general = false := by
        revert hs
        cases e.record <;> simp [Record.isStroke, Record.general]
      have hall : verdictLast (e :: es) = true ↔ ∀ y ∈ es, y.record.general = false := by
        simp [verdictLast, hs, he]
      rw [hall]
      exact ⟨fun h => ⟨by simpa using h, hnone h⟩, fun h => by simpa using h.1⟩

theorem State.reportOk_iff (s : State) : s.reportOk ↔ s.loadOk ∧ s.control.owedFit ∧ s.control.queueFit := by
  unfold State.reportOk
  rw [State.owedOk_iff, Control.queueFit, State.entries_eq, State.entries_eq, State.entries_eq]
  simp only [← List.countP_eq_length_filter]
  refine and_congr_right fun _ => and_congr_right fun _ => and_congr_right fun _ => and_congr_right fun _ =>
    and_congr_right fun _ => ?_
  simp only [State.control]
  cases s.stroke.state with
  | loading => simp [State.records]
  | reporting =>
    refine and_congr_right fun _ => ?_
    exact verdictLast_iff _
  | _ => exact Iff.rfl

/-- Records without a general record and without a STROKE_VERDICT, in each state from IDLE to ACQUIRING. -/
theorem Control.queueFit.clear {c : Control} (h : c.queueFit)
    (hs : c.state = .idle ∨ c.state = .arming ∨ c.state = .armed ∨ c.state = .acquiring) :
    c.entries Record.general = 0 ∧ c.entries Record.isStroke = 0 := by
  obtain ⟨-, -, -, hq⟩ := h
  obtain e | e | e | e := hs <;> rw [e] at hq <;> exact hq

theorem Control.queueFit.closing {c : Control} (h : c.queueFit) (hs : c.state = .closing) : c.entries Record.isStroke = 0 := by
  obtain ⟨-, -, -, hq⟩ := h
  rwa [hs] at hq

theorem Control.queueFit.reporting {c : Control} (h : c.queueFit) (hs : c.state = .reporting) :
    c.entries Record.isStroke = 1 ∧ c.verdictLast := by
  obtain ⟨-, -, -, hq⟩ := h
  rwa [hs] at hq

theorem Control.queueFit.loading {c : Control} (h : c.queueFit) (hs : c.state = .loading) : c.records = [] := by
  obtain ⟨-, -, -, hq⟩ := h
  rwa [hs] at hq

/-- A queue without a STROKE_VERDICT has no general record behind one. -/
theorem verdictLast_of_none {rs : List Record} (h : rs.countP Record.isStroke = 0) :
    rs.Pairwise fun x y => x.isStroke = true → y.general = false := by
  rw [List.countP_eq_zero] at h
  exact List.pairwise_of_forall_mem_list fun x hx y _ e => absurd e (h x hx)

/-- A REFUSAL that enters a free refusal entry keeps the classes in order (R87). -/
theorem Control.queueFit.refusal {c : Control} (h : c.queueFit) (r : RefusalRecord) (o : List RefusalRecord)
    (hs : c.state ≠ .loading) (hf : c.records.filter Record.isRefusal = []) :
    Control.queueFit { c with records := c.records ++ [.refusal r], owed := o } := by
  obtain ⟨hw, hg, -, hq⟩ := h
  have hr : c.entries Record.isRefusal = 0 := by rw [Control.entries, List.countP_eq_length_filter, hf, List.length_nil]
  have hgen : (c.records ++ [Record.refusal r]).countP Record.general = c.entries Record.general := by
    simp [Control.entries, Record.general]
  have hstr : (c.records ++ [Record.refusal r]).countP Record.isStroke = c.entries Record.isStroke := by
    simp [Control.entries, Record.isStroke]
  have href : (c.records ++ [Record.refusal r]).countP Record.isRefusal = 1 := by
    rw [List.countP_append, show c.records.countP Record.isRefusal = 0 from hr]
    rfl
  refine ⟨hw, by rw [Control.entries, hgen]; exact hg, by rw [Control.entries, href], ?_⟩
  cases hst : c.state with
  | loading => exact absurd hst hs
  | reporting =>
    rw [hst] at hq
    obtain ⟨hone, hlast⟩ := hq
    refine ⟨by rw [Control.entries, hstr]; exact hone, ?_⟩
    rw [Control.verdictLast, List.pairwise_append]
    refine ⟨hlast, List.pairwise_singleton _ _, fun x _ y hy _ => ?_⟩
    rw [List.mem_singleton.mp hy]
    rfl
  | closing =>
    rw [hst] at hq
    exact hstr.trans hq
  | idle | arming | armed | acquiring =>
    rw [hst] at hq
    exact ⟨hgen.trans hq.1, hstr.trans hq.2⟩

/-- The STROKE_VERDICT behind slot verdicts that find room: the queue of REPORTING (R104, R120, R182). -/
theorem Control.queueFit.report {c d : Control} (h : c.queueFit) (hnone : c.entries Record.isStroke = 0) (vs : List SlotVerdict)
    (v : StrokeVerdict) (hroom : c.entries Record.general + vs.length ≤ Config.generalEntries) (hs : d.state = .reporting)
    (hw : d.walker = .stopped) (hr : d.records = c.records ++ (vs.map .slot ++ [.stroke v])) : d.queueFit := by
  have hslots : ∀ p : Record → Bool, (∀ x, p (.slot x) = false) → (vs.map Record.slot).countP p = 0 := fun p hp => by
    rw [List.countP_eq_zero]
    simp [hp]
  have hfront : (c.records ++ vs.map Record.slot).countP Record.isStroke = 0 := by
    rw [List.countP_append, hslots _ fun _ => rfl]
    exact hnone
  rw [Control.queueFit, Control.entries, Control.entries, Control.entries, Control.verdictLast, hs, hw, hr, ← List.append_assoc]
  refine ⟨fun e => absurd rfl e, ?_, ?_, ?_, ?_⟩
  · rw [List.countP_append, List.countP_append]
    have hle : (vs.map Record.slot).countP Record.general ≤ vs.length := by
      simpa using List.countP_le_length (p := Record.general) (l := vs.map Record.slot)
    have hv : [Record.stroke v].countP Record.general = 0 := rfl
    rw [Control.entries] at hroom
    omega
  · rw [List.countP_append, List.countP_append, hslots _ fun _ => rfl]
    exact h.2.2.1
  · rw [List.countP_append, hfront]
    rfl
  · rw [List.pairwise_append]
    refine ⟨verdictLast_of_none hfront, List.pairwise_singleton _ _, fun x _ y hy _ => ?_⟩
    rw [List.mem_singleton.mp hy]
    rfl

/-- Records other than a STROKE_VERDICT may leave. -/
theorem Control.queueFit.leave {c : Control} (h : c.queueFit) {rs : List Record} (hrs : rs.Sublist c.records)
    (hstroke : rs.filter Record.isStroke = c.records.filter Record.isStroke) : Control.queueFit { c with records := rs } := by
  have hstr : rs.countP Record.isStroke = c.entries Record.isStroke := by
    rw [Control.entries, List.countP_eq_length_filter, List.countP_eq_length_filter, hstroke]
  have hgen : rs.countP Record.general ≤ c.entries Record.general := hrs.countP_le
  refine ⟨h.1, hgen.trans h.2.1, hrs.countP_le.trans h.2.2.1, ?_⟩
  cases hst : c.state with
  | loading =>
    rw [h.loading hst] at hrs
    exact List.sublist_nil.mp hrs
  | reporting =>
    obtain ⟨hone, hlast⟩ := h.reporting hst
    exact ⟨hstr.trans hone, List.Pairwise.sublist hrs hlast⟩
  | closing => exact hstr.trans (h.closing hst)
  | idle | arming | armed | acquiring =>
    obtain ⟨hzero, hnone⟩ := h.clear (by tauto)
    exact ⟨Nat.le_zero.mp (hgen.trans_eq hzero), hstr.trans hnone⟩

/-- The STROKE_VERDICT leaves the head and REPORTING ends: nothing general is behind it (R106, R182). -/
theorem Control.queueFit.verdictWritten {c : Control} (h : c.queueFit) (hs : c.state = .reporting) {r : Record} {rs : List Record}
    (hq : c.records = r :: rs) (hr : r.isStroke = true) {st : StrokeState} (hst : st = .idle ∨ st = .arming) :
    Control.queueFit { c with state := st, pending := none, records := rs } := by
  obtain ⟨hone, hlast⟩ := h.reporting hs
  obtain ⟨hw, hg, href, -⟩ := h
  have hnone : rs.countP Record.isStroke = 0 := by
    simpa [Control.entries, hq, hr] using hone
  have hzero : rs.countP Record.general = 0 := by
    rw [Control.verdictLast, hq, List.pairwise_cons] at hlast
    rw [List.countP_eq_zero]
    exact fun y hy => by simpa using hlast.1 y hy hr
  have hrefusal : rs.countP Record.isRefusal ≤ 1 := by
    refine le_trans ?_ href
    rw [Control.entries, hq]
    exact (List.sublist_cons_self r rs).countP_le
  refine ⟨fun e => ?_, by rw [Control.entries, hzero]; exact Nat.zero_le _, hrefusal, ?_⟩
  · have := hw e
    simp [hs] at this
  · obtain rfl | rfl := hst <;> exact ⟨hzero, hnone⟩

theorem Control.queueFit.move {c d : Control} (h : c.queueFit) (m : c.Move d) : d.queueFit := by
  have hfull := h
  obtain ⟨hw, hg, href, hq⟩ := h
  cases m with
  | refusal r hs hf => exact hfull.refusal r c.owed hs hf
  | handOff r rs hs hf => exact hfull.refusal r rs hs hf
  | owe | dropPending | pend | tick => exact ⟨hw, hg, href, hq⟩
  | beginArming hs =>
    rw [hs] at hq hw
    exact ⟨fun e => absurd (hw e) nofun, hg, href, hq⟩
  | endArming hs =>
    rw [hs] at hq hw
    exact ⟨fun e => absurd (hw e) nofun, hg, href, hq⟩
  | armed n hs =>
    rw [hs] at hq
    exact ⟨fun e => absurd rfl e, hg, href, hq⟩
  | acquire n hs =>
    have hclear := hfull.clear (by tauto)
    refine ⟨fun e => ?_, hg, href, hclear⟩
    have := hw e
    simp [this] at hs
  | close o hs => exact ⟨fun _ => rfl, hg, href, (hfull.clear (by tauto)).2⟩
  | report o vs v hs hv =>
    obtain hs | hs | ⟨hs, rfl⟩ := hs
    · obtain ⟨hzero, hnone⟩ := hfull.clear (by tauto)
      exact hfull.report hnone vs v (by rw [hzero]; simp only [Config.generalEntries]; omega) rfl rfl rfl
    · obtain ⟨hzero, hnone⟩ := hfull.clear (by tauto)
      exact hfull.report hnone vs v (by rw [hzero]; simp only [Config.generalEntries]; omega) rfl rfl rfl
    · exact hfull.report (hfull.closing hs) [] v hg rfl rfl rfl
  | walkEnds v hs => exact hfull.report (hfull.closing hs) [] v hg rfl rfl rfl
  | queueGeneral r hs hr hf =>
    have hnot : r.isStroke = false ∧ r.isRefusal = false := by
      revert hr
      cases r <;> simp [Record.general, Record.isStroke, Record.isRefusal]
    refine ⟨hw, ?_, ?_, ?_⟩
    · rw [← List.countP_eq_length_filter] at hf
      simpa [Control.entries, hr] using hf
    · simpa [Control.entries, hnot.2] using href
    · have hnone := hfull.closing hs
      rw [show ({ c with records := c.records ++ [r] } : Control).state = .closing from hs]
      simpa [Control.entries, hnot.1] using hnone
  | walkOn hs | pause x hs => exact ⟨fun _ => hs, hg, href, hq⟩
  | leave rs hrs hstroke hrefusal => exact hfull.leave hrs hstroke

theorem Control.Moves.keeps {I : Control → Prop} (hI : ∀ {c d : Control}, I c → c.Move d → I d) {c d : Control} (h : I c)
    (m : c.Moves d) : I d := by
  induction m with
  | refl => exact h
  | tail _ m ih => exact hI ih m

/-! ## Every event -/

theorem State.storeLine_walker (s : State) (line : Nat) (ws : List Word) : (s.storeLine line ws).walker = s.walker := by simp

/-- An answer of the load leaves the control, but for the end of the load (R158). -/
theorem State.loadAnswer_control {s : State} (hs : s.stroke.state = .loading) (line : Nat) (okay : Bool) (data : LineData) :
    (s.loadAnswer line okay data).control = s.control ∨
      (s.loadAnswer line okay data).control = { s.control with state := .idle } := by
  obtain ⟨hst, hq, -⟩ := State.loadStored_keeps hs line okay data
  have hw : (s.loadStored line okay data).walker = s.walker := by
    unfold State.loadStored
    dsimp only
    split <;> simp
  rw [State.loadAnswer_eq]
  obtain ⟨-, he⟩ | ⟨-, he⟩ := State.endLoad_cases (s := s.loadStored line okay data) (by rw [hst]; exact hs) <;> rw [he]
  · exact .inl (State.control_congr hst hw hq)
  · exact .inr (by simp [State.control, State.records, hst, hw, hq, State.markDirty])

/-- A property of the control that every move keeps is kept, with the load in order, by every event, where the completion of a record
keeps it. -/
theorem control_stepKeeps {I : Control → Prop} (hmove : ∀ {c d : Control}, I c → c.Move d → I d)
    (hfree : ∀ {s : State} {e es} (a okay adv), s.loadOk → I s.control → s.writer.queue = e :: es → e.record.isStroke = false →
      I (s.freeHead a okay adv).control)
    (hstroke : ∀ {s : State} {e es} (a okay adv first), s.loadOk → I s.control → s.writer.queue = e :: es →
      e.record.isStroke = true → I (s.completeRecord a okay adv first).control)
    (hload : ∀ {c : Control}, I c → c.state = .loading → I { c with state := .idle }) :
    StepKeeps (fun s => s.loadOk ∧ I s.control) fun _ => True where
  ok_of_wellFormed _ := trivial
  ok_of_waiting _ _ := trivial
  setPort {s _ _} h hw := ⟨loadOk_stepKeeps.setPort h.1 hw, by
    rw [State.control_congr (s := s) (by simp) (by simp) (by simp)]
    exact h.2⟩
  resetLine h := h
  pressLine h := h
  withPending h := h
  prescaler h := h
  countDown {s} h := ⟨loadOk_stepKeeps.countDown h.1, s.moves_countDown.keeps hmove h.2⟩
  refuseWrite {s _ _} h := ⟨loadOk_stepKeeps.refuseWrite h.1, (s.moves_refuseWrite _ _).keeps hmove h.2⟩
  writeRecipe {s _} h hs hw hr hoff := ⟨loadOk_stepKeeps.writeRecipe h.1 hs hw hr hoff,
    (s.moves_writeRecipe _ _).keeps hmove h.2⟩
  controlBeat {s _} h hs := ⟨loadOk_stepKeeps.controlBeat h.1 hs, (s.moves_controlBeat _).keeps hmove h.2⟩
  takeLanding h ha hr := ⟨loadOk_stepKeeps.takeLanding h.1 ha hr, (State.moves_takeLanding ha).keeps hmove h.2⟩
  armingCheck h hs := ⟨loadOk_stepKeeps.armingCheck h.1 hs, (State.moves_armingCheck hs).keeps hmove h.2⟩
  armingEnd h hs := ⟨loadOk_stepKeeps.armingEnd h.1 hs, (State.moves_armingEnd hs).keeps hmove h.2⟩
  abandonArming h hs := ⟨loadOk_stepKeeps.abandonArming h.1 hs, (State.moves_abandonArming hs).keeps hmove h.2⟩
  endStroke h hs := ⟨loadOk_stepKeeps.endStroke h.1 hs, (State.moves_endStroke hs _).keeps hmove h.2⟩
  walkStep h hs hw := ⟨loadOk_stepKeeps.walkStep h.1 hs hw, (State.moves_walkStep hs).keeps hmove h.2⟩
  grant {s} h := ⟨loadOk_stepKeeps.grant h.1, by
    rw [s.grant_control]
    exact h.2⟩
  headIssued {s} h := ⟨loadOk_stepKeeps.headIssued h.1, s.moves_headIssued.keeps hmove h.2⟩
  freeHead h hq hs := ⟨loadOk_stepKeeps.freeHead h.1 hq hs, hfree _ _ _ h.1 h.2 hq hs⟩
  completionFlags {s _ _ _} h := ⟨loadOk_stepKeeps.completionFlags h.1, (s.moves_completionFlags _ _ _).keeps hmove h.2⟩
  completeStroke h hq hs := ⟨loadOk_stepKeeps.completeStroke h.1 hq hs, hstroke _ _ _ _ h.1 h.2 hq hs⟩
  popAnswered h hi hk := ⟨loadOk_stepKeeps.popAnswered h.1 hi hk, h.2⟩
  completeStatus {s _} h := ⟨loadOk_stepKeeps.completeStatus h.1, (s.moves_completeStatus _).keeps hmove h.2⟩
  loadAnswer {s _ _ line okay data} h hi hk := by
    have hs := h.1.loading hi hk
    refine ⟨loadOk_stepKeeps.loadAnswer h.1 hi hk, ?_⟩
    obtain he | he := State.loadAnswer_control (s := s.popAnswered) hs line okay data <;> rw [he]
    · exact h.2
    · exact hload h.2 hs

/-! ## The stroke controller's invariant, kept -/

theorem Control.strokeFit.paused {c : Control} (h : c.strokeFit) (hp : c.walker = .paused) : c.state = .closing :=
  h.2.2.2.1.mp (by simp [hp])

theorem State.strokeFit_freeHead {s : State} (h : s.control.strokeFit) (hs : s.stroke.state ≠ .loading) (a : Word) (okay adv : Bool) :
    (s.freeHead a okay adv).control.strokeFit := by
  have hgone : (s.headGone a okay adv).control.strokeFit := by
    rw [State.headGone_control]
    exact h
  rw [State.freeHead_eq]
  exact (State.moves_refillEntries (by simpa using hs) hgone.paused).keeps Control.strokeFit.move hgone

theorem State.strokeFit_endReporting {s : State} (h : s.control.strokeFit) (r : Record) : (s.endReporting r).control.strokeFit := by
  unfold State.endReporting
  split
  · next hs =>
    have hrep : s.control.state = .reporting := hs.2
    rw [State.enterIdle_control]
    obtain ⟨harm, hstall, hpend, hwalk, hheld, hout⟩ := h
    split <;> simp_all [Control.strokeFit]
  · exact h

theorem State.strokeFit_completeStroke {s : State} {e : ReportEntry} {es : List ReportEntry} (h : s.control.strokeFit)
    (hs : s.stroke.state ≠ .loading) (hq : s.writer.queue = e :: es) (hr : e.record.isStroke = true) (a : Word)
    (okay adv first : Bool) : (s.completeRecord a okay adv first).control.strokeFit := by
  have hfree := State.strokeFit_freeHead h hs a okay adv
  rw [State.completeRecord_of_stroke hq hr]
  split
  · exact State.strokeFit_endReporting ((State.moves_completionFlags _ _ _ _).keeps Control.strokeFit.move hfree) _
  · exact (State.moves_completionFlags _ _ _ _).keeps Control.strokeFit.move (State.strokeFit_endReporting hfree _)

theorem strokeOk_stepKeeps : StepKeeps State.strokeOk fun _ => True :=
  control_stepKeeps Control.strokeFit.move
    (fun a okay adv hl h hq _ => State.strokeFit_freeHead h (hl.not_loading hq) a okay adv)
    (fun a okay adv first hl h hq hr => State.strokeFit_completeStroke h (hl.not_loading hq) hq hr a okay adv first)
    fun {c} h hs => by
      obtain ⟨harm, hstall, hpend, hwalk, hheld, hout⟩ := h
      simp_all [Control.strokeFit]

theorem Control.strokeFit_of_stopped {c : Control} (hs : c.state = .loading ∨ c.state = .idle) (ha : c.arm = none) (hb : c.stall = none)
    (hp : c.pending = none) (hw : c.walker = .stopped) (hh : c.held = none) : c.strokeFit := by
  obtain hs | hs := hs <;> simp [Control.strokeFit, hs, ha, hb, hp, hw, hh]

theorem State.warmReset_control (s : State) : s.warmReset.control = { s.control with
    state := if s.stroke.state = .loading then .loading else .idle
    arm := none, stall := none, pending := none, walker := .stopped, held := none, owed := [], records := [] } := rfl

/-- Settles O60: every event is a run of moves of the stroke controller and the closing walker, each of which keeps the timers, the pending
plan, the walker and the outcome in order; a record's completion ends REPORTING besides. -/
theorem stepKeepsStrokeController : Obligations.StepKeepsStrokeController := fun _ _ h hstep =>
  strokeOk_stepKeeps.step
    (fun {s} b k _ => (State.strokeOk_iff _).mpr ⟨State.loadOk_powerOn _ b k,
      Control.strokeFit_of_stopped (c := (s.powerOn b k).control) (.inl rfl) rfl rfl rfl rfl rfl⟩)
    (fun {s} h => (State.strokeOk_iff _).mpr ⟨State.loadOk_warmReset h.1, by
      rw [State.warmReset_control]
      exact Control.strokeFit_of_stopped (by dsimp only; split <;> simp) rfl rfl rfl rfl rfl⟩)
    (fun {s _ _} okay h hi hk => by
      obtain ⟨hl, hfit⟩ := (State.strokeOk_iff _).mp (strokeOk_stepKeeps.popAnswered h hi (by rw [hk]; rfl))
      exact (State.strokeOk_iff _).mpr ⟨State.loadOk_beatAnswered hl okay, (s.popAnswered.moves_beatAnswered okay).keeps Control.strokeFit.move hfit⟩)
    h hstep

/-! ## The report queue's invariant, kept -/

theorem Control.queueFit.paused {c : Control} (h : c.queueFit) (hp : c.walker = .paused) : c.state = .closing :=
  h.1 (by simp [hp])

/-- A head that is no STROKE_VERDICT leaves, and the entries move up (R182). -/
theorem State.queueFit_freeHead {s : State} {e : ReportEntry} {es : List ReportEntry} (h : s.control.queueFit)
    (hs : s.stroke.state ≠ .loading) (hq : s.writer.queue = e :: es) (hr : e.record.isStroke = false) (a : Word) (okay adv : Bool) :
    (s.freeHead a okay adv).control.queueFit := by
  have hrec : s.records = e.record :: es.map ReportEntry.record := by simp [State.records, hq]
  have hgone : (s.headGone a okay adv).control.queueFit := by
    rw [State.headGone_control]
    refine h.leave (List.tail_sublist _) ?_
    change s.records.tail.filter _ = s.records.filter _
    simp [hrec, hr]
  rw [State.freeHead_eq]
  exact (State.moves_refillEntries (by simpa using hs) hgone.paused).keeps Control.queueFit.move hgone

theorem State.control_entries (s : State) (p : Record → Bool) : s.control.entries p = s.records.countP p := rfl

/-- A STROKE_VERDICT is held in REPORTING alone (R104). -/
theorem State.reporting_of_stroke {s : State} (h : s.control.queueFit) {e : ReportEntry} {es : List ReportEntry}
    (hq : s.writer.queue = e :: es) (hr : e.record.isStroke = true) (hs : s.stroke.state ≠ .loading) :
    s.stroke.state = .reporting := by
  have hpos : s.control.entries Record.isStroke ≠ 0 := by
    simp [State.control_entries, State.records, hq, hr]
  cases hst : s.stroke.state with
  | loading => exact absurd hst hs
  | reporting => rfl
  | closing => exact absurd (h.closing hst) hpos
  | idle => exact absurd (h.clear (.inl hst)).2 hpos
  | arming => exact absurd (h.clear (.inr (.inl hst))).2 hpos
  | armed => exact absurd (h.clear (.inr (.inr (.inl hst)))).2 hpos
  | acquiring => exact absurd (h.clear (.inr (.inr (.inr hst)))).2 hpos

/-- The control when the STROKE_VERDICT has left: nothing but the head is gone, and an owed REFUSAL may have entered (R87). -/
theorem State.freeHead_control_of_reporting {s : State} (h : s.control.queueFit) (hs : s.stroke.state = .reporting) (a : Word)
    (okay adv : Bool) : (s.freeHead a okay adv).control = { s.control with records := s.records.tail } ∨
      ∃ r rs, s.records.tail.filter Record.isRefusal = [] ∧
        (s.freeHead a okay adv).control = { s.control with records := s.records.tail ++ [.refusal r], owed := rs } := by
  have hidle : (s.headGone a okay adv).resumeWalk = s.headGone a okay adv := by
    have hp : s.walker.state ≠ .paused := fun e => by
      have := h.paused e
      simp [State.control, hs] at this
    simp [State.resumeWalk, hp]
  have hup : ∀ t : State, t.takeUpHead.control = t.control := fun t => State.control_congr (by simp) (by simp) (by simp)
  have hrec : (s.headGone a okay adv).records = s.records.tail := congrArg Control.records (State.headGone_control s a okay adv)
  rw [State.freeHead_eq, State.refillEntries, hup, hidle]
  obtain he | ⟨r, rs, hf, he⟩ := (s.headGone a okay adv).handOffOwed_control
  · exact .inl (by rw [he, State.headGone_control])
  · refine .inr ⟨r, rs, by rw [← hrec]; exact hf, ?_⟩
    rw [he, hrec, State.headGone_control]

theorem State.queueFit_endStroke_written {s : State} {e : ReportEntry} {es : List ReportEntry} (h : s.control.queueFit)
    (hs : s.stroke.state = .reporting) (hq : s.writer.queue = e :: es) (hr : e.record.isStroke = true) (a : Word) (okay adv : Bool)
    {u : State} (hu : u.control = (s.freeHead a okay adv).control) : u.enterIdle.control.queueFit := by
  have hrec : s.records = e.record :: es.map ReportEntry.record := by simp [State.records, hq]
  have hst : ∀ p : Prop, [Decidable p] → (if p then StrokeState.idle else .arming) = .idle ∨
      (if p then StrokeState.idle else .arming) = .arming := fun p _ => by split <;> simp
  have hgone := h.verdictWritten hs hrec hr (hst (u.stroke.pendingPlan = none))
  rw [State.enterIdle_control, hu]
  obtain he | ⟨r, rs, hf, he⟩ := State.freeHead_control_of_reporting h hs a okay adv <;> rw [he]
  · rw [hrec]
    exact hgone
  · rw [hrec, List.tail_cons] at hf ⊢
    exact hgone.refusal r rs (by dsimp only; split <;> simp) hf

theorem State.control_completionFlags (s : State) (r : Record) (okay : Bool) : (s.completionFlags r okay).control = s.control := by
  refine State.control_congr (by simp) (by simp) ?_
  unfold State.completionFlags
  (repeat' split) <;> simp

/-- The completion of the STROKE_VERDICT's write, in either order of its blocks (R106). -/
theorem State.reportFit_completeStroke {s : State} {e : ReportEntry} {es : List ReportEntry} (h : s.control.queueFit)
    (hs : s.stroke.state ≠ .loading) (hq : s.writer.queue = e :: es) (hr : e.record.isStroke = true) (a : Word)
    (okay adv first : Bool) :
    (s.completeRecord a okay adv first).control.owedFit ∧ (s.completeRecord a okay adv first).control.queueFit := by
  have hrep := State.reporting_of_stroke h hq hr hs
  have hfree : ∀ u : State, u.control = (s.freeHead a okay adv).control → (u.endReporting e.record).control.owedFit ∧
      (u.endReporting e.record).control.queueFit := fun u hu => by
    have hstate : (s.freeHead a okay adv).control.state = .reporting := by
      obtain he | ⟨r, rs, -, he⟩ := State.freeHead_control_of_reporting h hrep a okay adv <;> rw [he] <;> exact hrep
    have hend : u.endReporting e.record = u.enterIdle := if_pos ⟨hr, by rw [← hstate, ← hu]; rfl⟩
    rw [hend]
    refine ⟨?_, State.queueFit_endStroke_written h hrep hq hr a okay adv hu⟩
    have howed := (State.owedOk_iff _).mp (s.freeHead_owedOk a okay adv)
    rw [← hu] at howed
    rw [State.enterIdle_control]
    exact howed
  rw [State.completeRecord_of_stroke hq hr]
  split
  · have hnotice : ∀ b, ((s.freeHead a okay adv).completionFlags e.record okay).notice b =
        (s.freeHead a okay adv).completionFlags e.record okay := fun b => by
      have hstate : (s.freeHead a okay adv).control.state = .reporting := by
        obtain he | ⟨r, rs, -, he⟩ := State.freeHead_control_of_reporting h hrep a okay adv <;> rw [he] <;> exact hrep
      refine State.notice_of_not_arming (fun e' => ?_) b
      have : (s.freeHead a okay adv).stroke.state = .arming := by simpa using e'
      rw [show (s.freeHead a okay adv).stroke.state = .reporting from hstate] at this
      cases this
    rw [hnotice]
    exact hfree _ (State.control_completionFlags _ _ _)
  · obtain ⟨howed, hqueue⟩ := hfree _ rfl
    have hm := State.moves_completionFlags ((s.freeHead a okay adv).endReporting e.record) e.record okay
    exact ⟨(hm _).keeps Control.owedFit.move howed, (hm _).keeps Control.queueFit.move hqueue⟩

theorem reportFit_stepKeeps : StepKeeps (fun s => s.loadOk ∧ s.control.owedFit ∧ s.control.queueFit) fun _ => True :=
  control_stepKeeps (I := fun c => c.owedFit ∧ c.queueFit) (fun h m => ⟨h.1.move m, h.2.move m⟩)
    (fun {s _ _} a okay adv hl h hq hr => ⟨(State.owedOk_iff _).mp (s.freeHead_owedOk a okay adv),
      State.queueFit_freeHead h.2 (hl.not_loading hq) hq hr a okay adv⟩)
    (fun a okay adv first hl h hq hr => State.reportFit_completeStroke h.2 (hl.not_loading hq) hq hr a okay adv first)
    fun {c} h hs => by
      have hnil := h.2.loading hs
      obtain ⟨howed, hw, hg, href, -⟩ := h
      refine ⟨howed, fun e => ?_, hg, href, by simp [Control.entries, hnil]⟩
      have := hw e
      simp [hs] at this

theorem Control.queueFit_of_empty {c : Control} (hs : c.state = .loading ∨ c.state = .idle) (hw : c.walker = .stopped)
    (hr : c.records = []) : c.queueFit := by
  obtain hs | hs := hs <;> simp [Control.queueFit, Control.entries, hs, hw, hr]

/-- Settles O57: every event is a run of moves of the report queue by class; a record's completion frees the head, hands an owed REFUSAL to
the entry it freed, and ends REPORTING with the STROKE_VERDICT, behind which nothing general stands. -/
theorem stepKeepsReportQueueClasses : Obligations.StepKeepsReportQueueClasses := fun s t h hstep => by
  rw [State.reportOk_iff] at h ⊢
  refine reportFit_stepKeeps.step (fun b k _ => ⟨State.loadOk_powerOn _ b k, fun e => absurd rfl e,
    Control.queueFit_of_empty (.inl rfl) rfl rfl⟩) (fun {s} h => ⟨State.loadOk_warmReset h.1, ?_⟩)
    (fun {s _ _} okay h hi hk => ?_) h hstep
  · rw [State.warmReset_control]
    exact ⟨fun e => absurd rfl e, Control.queueFit_of_empty (by dsimp only; split <;> simp) rfl rfl⟩
  · have hpop := reportFit_stepKeeps.popAnswered h hi (by rw [hk]; rfl)
    have hm := s.popAnswered.moves_beatAnswered okay
    exact ⟨State.loadOk_beatAnswered hpop.1 okay, hm.keeps Control.owedFit.move hpop.2.1, hm.keeps Control.queueFit.move hpop.2.2⟩

/-! ## Reset -/

/-- Settles O54: the state after power-on reset is the one a power-on reset leaves with the straps at 0. -/
theorem invariantsHoldAtReset : Obligations.InvariantsHoldAtReset := by
  have hload : State.reset.loadOk := State.loadOk_powerOn State.reset 0 0
  refine ⟨⟨rfl, rfl, shadowSum_nil.symm, rfl, rfl⟩, ⟨Nat.zero_le _, Nat.zero_le _, Nat.zero_le _⟩, ?_, ?_,
    State.checkerOk_powerOn State.reset 0 0, (State.strokeOk_iff _).mpr
      ⟨hload, Control.strokeFit_of_stopped (c := State.reset.control) (.inl rfl) rfl rfl rfl rfl rfl⟩⟩
  · exact (State.reportOk_iff _).mpr ⟨hload, fun e => absurd rfl e, Control.queueFit_of_empty (.inl rfl) rfl rfl⟩
  · exact ⟨hload, State.ringCapacity_pos _, State.ringCapacity_pos _, fun _ => ⟨rfl, rfl⟩⟩

end Sys2Proof.Machine

/-! PROOFS. Statements about the queue of commands, the resets and the lines. -/

namespace Sys2Proof.Machine

/-! ## The queue of commands -/

/-- Settles O1. -/
theorem stepRunsTheFrontCommand : Obligations.StepRunsTheFrontCommand := by
  intro c cs s hp
  rw [step, hp]
  rfl

/-- Settles O2: a request is presented, and every other row is one operation, or none, on the state. -/
theorem everyCommandAnswersAState : Obligations.EveryCommandAnswersAState := by
  intro c s
  cases hr : requestOf c with
  | some pr => exact ⟨_, exec_requestOf s hr, by simp⟩
  | none =>
    cases c
    case powerOnReset b k => exact ⟨_, rfl, rfl⟩
    case warmReset =>
      refine ⟨_, rfl, ?_⟩
      split <;> rfl
    case pressAbort v => exact ⟨_, rfl, by simp⟩
    case waitingLandingWriteTaken | hazardWaitEnd | loadingWaitEnd | armWaitEnd | armExpiry | stallExpiry | memoryGrant =>
      exact ⟨_, rfl, by simp⟩
    case armingCheck | armingWalkEnd | closingWalkStep | recordToControlRegion =>
      refine ⟨_, rfl, ?_⟩
      split <;> simp
    case resetNDeasserted first =>
      refine ⟨_, rfl, ?_⟩
      split <;> simp [State.endReset]
    case passThroughAnswer | gridWriteAnswer | recordWriteComplete | statusWriteComplete | loadReadAnswer =>
      refine ⟨_, rfl, ?_⟩
      (repeat' split) <;> simp
    all_goals exact absurd hr (by simp [requestOf])

/-! ## The clock -/

theorem State.idleStep_of_idle {s : State} (hp : s.pending = []) (hA : s.takesHeld .a = false) (hS : s.takesHeld .s = false) :
    step s = .next s.clock := by
  rw [step, hp]
  simp [State.idleStep, hA, hS]

theorem StrokeBlock.timers_none {b : StrokeBlock} (ha : b.armTimer = none) (hb : b.stallTimer = none) :
    { b with armTimer := none, stallTimer := none } = b := by
  cases b
  simp_all

/-- Settles O3. -/
theorem idleStepCountsTheTimebase : Obligations.IdleStepCountsTheTimebase := by
  refine ⟨⟨rfl, rfl, rfl, rfl⟩, fun s hp hA hS => ⟨fun hlt => ?_, fun hge => ?_⟩⟩
  · rw [State.idleStep_of_idle hp hA hS, State.clock, if_pos hlt]
  · have hclock : s.clock = ({ s with prescaler := 0 }).timebase := if_neg (by omega)
    rw [State.idleStep_of_idle hp hA hS, hclock]
    have hexpired : ∀ (u : State) (o : StrokeOutcome), (u.endStroke o).stroke.outcome = some o ∧
        (u.endStroke o).stroke.armTimer = none ∧ (u.endStroke o).stroke.stallTimer = none := fun u o => by
      obtain ⟨st, -, he⟩ := u.endStroke_stroke o
      simp [he]
    refine ⟨fun ha hb => ?_, fun n ha hb => ?_, fun n ha hb => ?_, fun hs ha => ?_, fun hs ha hb => ?_⟩
    · simp [State.timebase, ha, hb, countDown, StrokeBlock.timers_none ha hb]
    · simp [State.timebase, ha, hb, countDown]
    · simp [State.timebase, ha, hb, countDown]
    · exact ⟨_, rfl, by simpa [State.timebase, ha, countDown, State.armExpiry, hs] using hexpired _ _⟩
    · exact ⟨_, rfl, by simpa [State.timebase, ha, hb, countDown, State.stallExpiry, hs] using hexpired _ _⟩

/-! ## The resets -/

/-- Settles O4. -/
theorem powerOnResetValues : Obligations.PowerOnResetValues := by
  intro b k s
  have hpin : ∀ c, (s.powerOn b k).pin c = PinContext.cleared .unused := fun c => by
    by_cases hc : c < 1024
    · simp [State.pin, State.powerOn, State.reset, Vector.getD, hc]
    · exact State.pin_of_ge _ c (Nat.not_lt.mp hc)
  refine ⟨_, rfl, rfl, rfl, rfl, rfl, ⟨rfl, fun i => ?_, rfl, rfl, rfl, rfl, rfl, rfl, rfl, rfl⟩, ⟨fun _ => rfl, rfl, fun i => ?_⟩,
    rfl, rfl, rfl, ⟨hpin, fun n => slotFailing_replicate n, rfl⟩, ⟨rfl, rfl, rfl, rfl, rfl⟩,
    ⟨rfl, rfl, rfl, rfl, rfl, rfl, rfl, rfl, rfl, rfl, rfl⟩, ⟨rfl, rfl, rfl, rfl, rfl, rfl, rfl, ?_⟩, rfl, rfl⟩
  · exact Vector.getElem_replicate _
  · exact Vector.getElem_replicate _
  · simp [State.irqLine, State.powerOn, State.reset]

theorem State.rdyLine_eq_false {s : State} (ha : s.stroke.state ≠ .armed) (hb : s.stroke.state ≠ .acquiring) : s.rdyLine = false := by
  simp [State.rdyLine, ha, hb]

/-- Settles O5. -/
theorem warmResetKeepsAndClears : Obligations.WarmResetKeepsAndClears := by
  refine ⟨fun s hn => ⟨_, exec_warmReset hn, rfl, rfl, rfl, rfl, rfl, rfl,
    ⟨rfl, rfl, rfl, rfl, rfl, rfl, rfl, rfl, rfl, rfl, rfl⟩, rfl, ⟨rfl, ?_, ?_⟩, rfl, rfl⟩,
    fun s hn => ⟨_, exec_warmReset hn, fun p => ?_, rfl, s.warmReset_kinds, ?_, fun x hx hk => ?_⟩⟩
  · refine State.rdyLine_eq_false ?_ ?_ <;> rw [State.warmReset_state] <;> split <;> simp
  · simp [State.irqLine, State.warmReset]
  · have hport : s.warmReset.port p = { s.port p with status := (s.port p).status.afterReset } := by cases p <;> rfl
    rw [hport]
    exact ⟨fun h => by rw [h]; rfl, fun r c h => by rw [h]; rfl, fun r i h => by rw [h]; rfl, fun r i h => by rw [h]; rfl, rfl, rfl⟩
  · simp [State.warmReset, Transaction.afterReset, Function.comp_def]
  · obtain ⟨y, -, rfl⟩ := List.mem_map.mp hx
    have hkind : y.afterReset.kind = y.kind := rfl
    rw [hkind] at hk
    obtain hk | hk | hk := hk <;> simp [Transaction.afterReset, hk, TransactionKind.cleared]

/-! ## The lines -/

theorem EventFlag.exists_bit {i : Nat} (h : i < 9) : ∃ f : EventFlag, f.bit = i := by
  interval_cases i
  exacts [⟨.verdict, rfl⟩, ⟨.refusal, rfl⟩, ⟨.halt, rfl⟩, ⟨.protect, rfl⟩, ⟨.stray, rfl⟩, ⟨.ringWait, rfl⟩, ⟨.index, rfl⟩,
    ⟨.memerr, rfl⟩, ⟨.loaded, rfl⟩]

/-- Some bit of nine is set, at the position of a flag. -/
theorem flags_ne_zero_iff (x : BitVec 9) : x ≠ 0#9 ↔ ∃ f : EventFlag, x.getLsbD f.bit = true := by
  constructor
  · intro h
    by_contra hn
    refine h (BitVec.eq_of_getLsbD_eq fun i hi => ?_)
    obtain ⟨f, rfl⟩ := EventFlag.exists_bit hi
    simpa using fun hf => hn ⟨f, hf⟩
  · rintro ⟨f, hf⟩ rfl
    simp at hf

theorem State.irqLine_iff (s : State) : s.irqLine = true ↔
    ∃ f : EventFlag, s.lines.flags.getLsbD f.bit = true ∧ s.lines.enables.getLsbD f.bit = true := by
  rw [State.irqLine, bne_iff_ne, flags_ne_zero_iff]
  simp

/-- Settles O8. -/
theorem rdyAndIrqLines : Obligations.RdyAndIrqLines := fun s => by
  refine ⟨?_, s.irqLine_iff⟩
  simp [State.rdyLine, Plan.source, and_assoc]

end Sys2Proof.Machine

/-! PROOFS. Statements about the near ports: requests presented, answered, forwarded or held, and the ends of waits. -/

namespace Sys2Proof.Machine

/-- Settles O10. -/
theorem requestRowsAndBusyPorts : Obligations.RequestRowsAndBusyPorts := by
  refine ⟨fun c p r s h => ?_, fun c p r s h hb => ?_⟩
  · rw [exec_requestOf s h, exec_requestOf (c := .passThroughRequest p r) s rfl]
  · rw [exec_requestOf s h, presentRequest_of_busy r hb]

/-! ## Malformed requests -/

theorem exec_malformed {s : State} {p : PortId} {r : Request} (ho : s.portOpen p) (hw : r.wellFormed = false) :
    exec (.malformedRequest p r) s = .next (s.answer p (malformedAnswer r)) := by
  rw [exec_requestOf (c := .malformedRequest p r) s rfl, presentRequest_of_open r ho, State.handle, hw]
  rfl

/-- An answer at a FREE port changes its last answer alone. -/
theorem State.answer_of_free {s : State} {p : PortId} (h : (s.port p).status = .free) (x : Answer) :
    s.answer p x = s.setPort p { s.port p with answer := some x } := by
  rw [State.answer, ← h]

/-- Settles O11. -/
theorem malformedRequestAnsweredError : Obligations.MalformedRequestAnsweredError := by
  refine ⟨Request.wellFormed_iff, fun p a n s ho hw => ?_, fun p w s ho hw => ?_⟩
  · rw [exec_malformed ho hw, State.answer_of_free ho.1]
    rfl
  · rw [exec_malformed ho hw, State.answer_of_free ho.1]
    rfl

/-! ## The region decoder -/

/-- A request meets a queued grid beat (R193). -/
theorem State.hazard_iff (s : State) (r : Request) : s.hazard r = true ↔
    ∃ j < r.count, ∃ e ∈ s.remap.queue, e.addr = toAddr (r.addr.toNat + 4 * j) := by
  simp [State.hazard, Request.wordAddrs]

theorem State.hazard_eq_false_iff (s : State) (r : Request) : s.hazard r = false ↔
    ∀ j < r.count, ∀ e ∈ s.remap.queue, e.addr ≠ toAddr (r.addr.toNat + 4 * j) := by
  rw [← Bool.not_eq_true, State.hazard_iff]
  push Not
  rfl

/-- A request outside the region and the landing window is plain pass-through (R173, R175). -/
theorem State.classify_plain {s : State} {p : PortId} {r : Request} (hr : s.inRegion r.addr.toNat = false)
    (hw : ∀ w, r = .write w → s.inLanding w.addr.toNat = false) : s.classify p r = s.passThrough p r := by
  cases r with
  | read a n => simp [State.classify, hr]
  | write w => simp [State.classify, hr, hw w rfl]

theorem State.passThrough_forward {s : State} {r : Request} (p : PortId) (h : s.hazard r = false) :
    s.passThrough p r = s.forward p r := by
  simp [State.passThrough, h]

theorem State.passThrough_wait {s : State} {r : Request} (p : PortId) (h : s.hazard r = true) :
    s.passThrough p r = s.waitAt p r .hazard := by
  simp [State.passThrough, h]

/-- A read of the control region after LOADING is forwarded (R173). -/
theorem State.classify_regionRead {s : State} {p : PortId} {a : Word} {n : Nat} (hr : s.inRegion a.toNat = true)
    (hl : s.stroke.state ≠ .loading) : s.classify p (.read a n) = s.forward p (.read a n) := by
  simp [State.classify, Request.addr, hr, hl]

theorem State.classify_loading {s : State} {p : PortId} {r : Request} (hr : s.inRegion r.addr.toNat = true)
    (hl : s.stroke.state = .loading) : s.classify p r = s.waitAt p r .loading := by
  simp [State.classify, hr, hl]

theorem State.windowLive_iff (s : State) : s.windowLive = true ↔ s.stroke.state = .armed ∨ s.stroke.state = .acquiring ∨
    s.stroke.state = .closing ∨ s.stroke.state = .reporting := by
  simp [State.windowLive, or_assoc]

/-- Settles O12. -/
theorem requestsForwardedOrHeld : Obligations.RequestsForwardedOrHeld := by
  refine ⟨fun p r s ho hw h => ?_, fun p r s ho hw => ⟨?_, ?_⟩, fun s a => ⟨rfl, s.inRegion_iff a, ?_⟩⟩
  · rw [exec_request_open (c := .passThroughRequest p r) rfl ho hw]
    obtain ⟨hr, hl, hh⟩ | ⟨hr, hl, a, n, rfl⟩ := h
    · rw [State.classify_plain hr hl, State.passThrough_forward p ((s.hazard_eq_false_iff r).mpr hh)]
      rfl
    · rw [State.classify_regionRead (a := a) hr hl]
      rfl
  · rintro ⟨hr, hl, hh⟩
    rw [exec_request_open (c := .passThroughRequest p r) rfl ho hw, State.classify_plain hr hl,
      State.passThrough_wait p ((s.hazard_iff r).mpr hh)]
    rfl
  · rintro ⟨hr, hl⟩
    rw [exec_request_open (c := .passThroughRequest p r) rfl ho hw, State.classify_loading hr hl]
    rfl
  · simp only [State.inLanding, Bool.and_eq_true, State.windowLive_iff, decide_eq_true_eq, and_assoc]
    rfl

/-! ## Ends of a wait -/

/-- A FREE port that holds nothing off is open. -/
theorem State.portOpen_setFree {s : State} {p : PortId} (hh : (s.port p).heldOff = []) (hr : s.lines.resetN = false) :
    (s.setPort p { s.port p with status := .free }).portOpen p := by
  refine ⟨by rw [State.port_setPort_self], by rw [State.port_setPort_self]; exact hh, ?_⟩
  simpa using hr

/-- A wait's end, as the presentation of its request again (R174). -/
theorem State.endWait_presented {s : State} {p : PortId} {r : Request} {c : WaitCause} (hh : (s.port p).heldOff = [])
    (hr : s.lines.resetN = false) (hw : r.wellFormed = true) (hs : (s.port p).status = .waiting r c) {waits : Prop} [Decidable waits]
    (ho : s.waitOver r c = true ↔ ¬ waits) : Host.Outcome.next (s.endWait p c) = (if waits then .next s
      else exec (.passThroughRequest p r) (s.setPort p { s.port p with status := .free }) : Host.Outcome State Fault Refusal) := by
  rw [endWait_eq hs, exec_request_open (c := .passThroughRequest p r) rfl (State.portOpen_setFree hh hr) hw]
  by_cases h : waits
  · rw [if_pos h, if_neg (fun e => ho.mp e h)]
  · rw [if_neg h, if_pos (ho.mpr h)]
    rfl

/-- Letting the request go and forwarding it is marking it OUTSTANDING. -/
theorem State.forward_freePort (s : State) (p : PortId) (r : Request) :
    (s.freePort p).forward p r = s.setPort p { s.port p with status := .outstanding r false } := by
  simp [State.forward, State.freePort]

theorem State.inRegion_freePort (s : State) (p : PortId) (a : Nat) : (s.freePort p).inRegion a = s.inRegion a := by
  cases p <;> rfl

theorem State.inLanding_freePort (s : State) (p : PortId) (a : Nat) : (s.freePort p).inLanding a = s.inLanding a := by
  cases p <;> rfl

theorem State.hazard_freePort (s : State) (p : PortId) (r : Request) : (s.freePort p).hazard r = s.hazard r := by
  simp [State.hazard]

/-- Settles O13. -/
theorem waitEnds : Obligations.WaitEnds := by
  refine ⟨fun p r s hh hr hw => ⟨fun hs => ?_, fun hs => ?_, fun hs => ?_, fun hp hs => ?_⟩, fun p r s => ⟨?_, ?_⟩⟩
  · refine State.endWait_presented hh hr hw hs ?_
    rw [State.waitOver, Bool.not_eq_true', ← Bool.not_eq_true, State.hazard_iff]
  · refine State.endWait_presented hh hr hw hs ?_
    simp [State.waitOver]
  · refine State.endWait_presented hh hr hw hs ?_
    rw [State.waitOver, State.roomFor, decide_eq_true_iff, Nat.not_lt]
    rfl
  · subst hp
    refine State.endWait_presented hh hr hw hs ?_
    simp [State.waitOver]
  · intro hs hr hl hh
    have hover : s.waitOver r .hazard = true := by simp [State.waitOver, (s.hazard_eq_false_iff r).mpr hh]
    refine congrArg Host.Outcome.next ?_
    rw [endWait_eq hs, if_pos hover, State.classify_plain (by rwa [State.inRegion_freePort])
      (fun w e => by rw [State.inLanding_freePort]; exact hl w e), State.passThrough_forward, State.forward_freePort]
    rw [State.hazard_freePort]
    exact (s.hazard_eq_false_iff r).mpr hh
  · rintro a n hs rfl hr hl
    refine congrArg Host.Outcome.next ?_
    rw [endWait_eq hs, if_pos (by simp [State.waitOver, hl]), State.classify_regionRead (by rwa [State.inRegion_freePort])
      (by simpa using hl), State.forward_freePort]

end Sys2Proof.Machine

/-! PROOFS. Statements about the ends of an arming and of a stroke: refusals, the press, the timers and the arming walk. -/

namespace Sys2Proof.Machine

/-! ## The end of an arming -/

/-- The stroke controller after a refused arming (R86, R87). -/
theorem State.refuseArming_stroke (s : State) (r : RefusalRecord) :
    (s.refuseArming r).stroke = match s.stroke.pendingPlan with
      | none => { s.stroke with
          owed := if s.refusalOccupied then s.stroke.owed ++ [r] else s.stroke.owed, state := .idle }
      | some p => { s.stroke with
          owed := if s.refusalOccupied then s.stroke.owed ++ [r] else s.stroke.owed
          state := .arming, latched := p, walk := .check 1, pendingPlan := none } := by
  cases hp : s.stroke.pendingPlan <;>
    simp [State.refuseArming, State.enterIdle_stroke, State.queueRefusal_stroke, hp]

/-- What of the stroke controller no refused arming touches (R88). -/
theorem State.refuseArming_counts (s : State) (r : RefusalRecord) :
    (s.refuseArming r).stroke.samplesTaken = s.stroke.samplesTaken ∧
      (s.refuseArming r).stroke.stepsTaken = s.stroke.stepsTaken ∧ (s.refuseArming r).stroke.outcome = s.stroke.outcome ∧
      (s.refuseArming r).stroke.armTimer = s.stroke.armTimer ∧ (s.refuseArming r).stroke.stallTimer = s.stroke.stallTimer ∧
      (s.refuseArming r).stroke.gridWriteError = s.stroke.gridWriteError ∧ (s.refuseArming r).stroke.pendingPlan = none := by
  rw [State.refuseArming_stroke]
  cases hp : s.stroke.pendingPlan <;> simp [hp]

/-- Where a refused arming leads: to IDLE, or to ARMING with the pending plan (R86). -/
theorem State.refuseArming_next (s : State) (r : RefusalRecord) :
    (s.stroke.pendingPlan = none → (s.refuseArming r).stroke.state = .idle ∧
      (s.refuseArming r).stroke.latched = s.stroke.latched) ∧
    ∀ q, s.stroke.pendingPlan = some q → (s.refuseArming r).stroke.state = .arming ∧
      (s.refuseArming r).stroke.latched = q ∧ (s.refuseArming r).stroke.walk = .check 1 := by
  rw [State.refuseArming_stroke]
  exact ⟨fun h => by simp [h], fun q h => by simp [h]⟩

/-- A state whose arming has been abandoned, seen through any state that has the stroke controller and the queue of it. -/
theorem State.abandonedTo_of {s u t : State} (ho : s.owedOk) (hu : u.stroke = s.stroke) (hq : u.writer.queue = s.writer.queue)
    (hst : t.stroke = u.abandonArming.stroke) (hqt : t.writer.queue = u.abandonArming.writer.queue)
    (hc : t.checker = s.checker) (hr : t.remap.sequence = s.remap.sequence) : s.abandonedTo t := by
  have hou : u.owedOk := by
    unfold State.owedOk State.refusalOccupied at ho ⊢
    rwa [State.entries_congr hq, hu]
  obtain ⟨h1, h2, h3, h4, h5, -, h7⟩ := u.refuseArming_counts (u.refusalOf .abandoned)
  obtain ⟨hnone, hsome⟩ := u.refuseArming_next (u.refusalOf .abandoned)
  unfold State.abandonedTo
  rw [State.refusals_congr (t := t) (s := u.abandonArming) hqt (by rw [hst]), hst, ← hu]
  refine ⟨?_, h7, hnone, hsome, hc, hr, h1, h2, h3, h4, h5⟩
  rw [State.abandonArming, State.refuseArming_refusals u _ hou, State.refusals_congr hq (by rw [hu]), State.refusalOf,
    State.strokeNumber, State.strokeNumber, hu]

/-- The lines after a REFUSAL is given to the queue (R87, R185). -/
theorem State.queueRefusal_lines (s : State) (r : RefusalRecord) :
    (s.queueRefusal r).lines = if s.writer.queue = [] ∧ s.ringFull = true ∧ s.writerBusy = false then
      { s.lines with flags := s.lines.flags ||| 0x20#9 } else s.lines := by
  unfold State.queueRefusal
  split
  · next hocc =>
    have hne : s.writer.queue ≠ [] := fun e => by simp [State.refusalOccupied, State.entries, e] at hocc
    simp [hne]
  · exact State.enqueue_lines s _

theorem State.refuseArming_lines (s : State) (r : RefusalRecord) :
    (s.refuseArming r).lines = if s.writer.queue = [] ∧ s.ringFull = true ∧ s.writerBusy = false then
      { s.lines with flags := s.lines.flags ||| 0x20#9 } else s.lines := by
  rw [← State.queueRefusal_lines s r]
  simp [State.refuseArming]

/-! ## The end of a stroke -/

/-- What a stroke that ends leaves: its outcome, the timers stopped, CLOSING or REPORTING, hence RDY deasserted (R95, R134). -/
theorem State.endStroke_ended (s : State) (o : StrokeOutcome) :
    (s.endStroke o).stroke.outcome = some o ∧ (s.endStroke o).stroke.armTimer = none ∧
      (s.endStroke o).stroke.stallTimer = none ∧ (s.endStroke o).rdyLine = false ∧
      ((s.endStroke o).stroke.state = .closing ∨ (s.endStroke o).stroke.state = .reporting) ∧
      (s.endStroke o).stroke.pendingPlan = s.stroke.pendingPlan := by
  obtain ⟨st, hst, he⟩ := s.endStroke_stroke o
  refine ⟨by rw [he], by rw [he], by rw [he], ?_, by rw [he]; exact hst, by rw [he]⟩
  refine State.rdyLine_eq_false ?_ ?_ <;> rw [he] <;> obtain rfl | rfl := hst <;> simp

/-- The walk begun where a slot is active is CLOSING. -/
theorem State.walkBegun.closing {s t : State} (h : s.walkBegun t) (ha : ∃ n < 4, Plan.active s.stroke.latched n = true) :
    t.stroke.state = .closing := by
  classical
  have hfind : ∃ n, n < 4 ∧ Plan.active s.stroke.latched n = true := ha
  obtain ⟨hn, hactive⟩ := Nat.find_spec hfind
  refine (h _ hn hactive fun k hk => ?_).1
  have := Nat.find_min hfind hk
  simpa [show k < 4 by omega] using this

/-- The state with the press line asserted. -/
def State.pressed (s : State) : State := { s with lines := { s.lines with pressAbort := true } }

theorem exec_pressAbort {s : State} (h : s.lines.pressAbort = false) :
    exec (.pressAbort true) s = .next s.pressed.pressAsserted := by
  refine congrArg Host.Outcome.next ?_
  simp [State.pressLevel, h, State.pressed]

/-- Settles O9. -/
theorem pressAbortByState : Obligations.PressAbortByState := by
  refine fun s => ⟨rfl, fun h => ?_, fun h => ⟨fun hs => ?_, fun hs ho => ?_, fun hs => ?_⟩⟩
  · refine congrArg Host.Outcome.next ?_
    rw [State.pressLevel, h]
    exact (by rw [← h] : ({ s with lines := { s.lines with pressAbort := true } } : State) = s)
  · rw [exec_pressAbort h]
    obtain hs | hs | hs | hs := hs <;> simp [State.pressAsserted, State.pressed, hs]
  · rw [exec_pressAbort h]
    have he : s.pressed.pressAsserted = s.pressed.abandonArming := by simp [State.pressAsserted, State.pressed, hs]
    refine ⟨_, rfl, ?_⟩
    rw [he]
    exact ⟨State.abandonedTo_of ho (u := s.pressed) rfl rfl rfl rfl (by simp [State.pressed]) (by simp [State.pressed]),
      by simp [State.pressed]⟩
  · rw [exec_pressAbort h]
    have he : s.pressed.pressAsserted = s.pressed.endStroke .pressStopped := by
      obtain hs | hs := hs <;> simp [State.pressAsserted, State.pressed, hs]
    refine ⟨_, rfl, ?_⟩
    rw [he]
    obtain ⟨h1, h2, h3, h4, h5, h6⟩ := s.pressed.endStroke_ended .pressStopped
    exact ⟨h1, h2, h3, h4, h5, h6, by simp [State.pressed], by simp [State.pressed], by simp [State.pressed],
      by simp [State.pressed], by simp [State.pressed], s.pressed.endStroke_roomWaitDropped _,
      fun _ h0 => State.endStroke_endedEmpty (s := s.pressed) (by decide) h0,
      fun _ h0 => State.endStroke_walkBegun (s := s.pressed) (by decide) (Nat.pos_iff_ne_zero.mp h0)⟩

/-- Settles O42. -/
theorem timerExpiries : Obligations.TimerExpiries := by
  refine ⟨fun s hs ht h0 => ⟨s.endStroke .expired, ?_, ?_⟩, fun s hs ht h0 ha => ⟨s.endStroke .stalled, ?_, ?_⟩⟩
  · exact congrArg Host.Outcome.next (if_pos ⟨hs, ht⟩)
  · obtain ⟨h1, h2, h3, h4, -, -⟩ := s.endStroke_ended .expired
    exact ⟨h1, h2, h3, h4, State.endStroke_endedEmpty (by decide) h0, s.endStroke_roomWaitDropped _, by simp⟩
  · exact congrArg Host.Outcome.next (if_pos ⟨hs, ht⟩)
  · obtain ⟨h1, h2, h3, h4, -, -⟩ := s.endStroke_ended .stalled
    obtain ⟨hw, hq⟩ := State.endStroke_walkBegun (s := s) (o := .stalled) (by decide) (Nat.pos_iff_ne_zero.mp h0)
    exact ⟨hw.closing ha, h1, h2, h3, h4, hw, s.endStroke_roomWaitDropped _, hq ha, by simp⟩

/-! ## The arming walk -/

/-- Settles O39. -/
theorem armingCheckPassesOrRefuses : Obligations.ArmingCheckPassesOrRefuses := by
  intro s hs hw
  have hexec : exec .armingCheck s = .next s.armingCheck := congrArg Host.Outcome.next (if_pos ⟨hs, hw⟩)
  refine ⟨fun hf => ?_, fun kind idx hf ho => ?_⟩
  · rw [hexec, State.armingCheck, hf]
  · let r : RefusalRecord :=
      { strokeNumber := s.strokeNumber, reason := .parameter, detailKind := kind, detailIndex := idx }
    have he : s.armingCheck = s.refuseArming r := by rw [State.armingCheck, hf]
    obtain ⟨h1, h2, h3, h4, h5, -, h7⟩ := s.refuseArming_counts r
    obtain ⟨hnone, hsome⟩ := s.refuseArming_next r
    rw [hexec, he]
    exact ⟨_, rfl, State.refuseArming_refusals s r ho, by simp, by simp, by simp, by simp, h1, h2, h3, h4, h5, h7,
      s.refuseArming_lines r, hnone, hsome⟩

/-- A pin is used when its cell belongs to an active slot and its use is CHECK (R10). -/
theorem usedPin_iff (m : Memory) (p : Plan) (c : Nat) : usedPin m p c = true ↔
    (∃ n < 4, Plan.active p n = true ∧ firstCell m n ≤ c ∧ c ≤ lastCell m n) ∧ (pinMapWord m c).getLsbD 24 = true := by
  have hmem : ∀ n, n ∈ [0, 1, 2, 3] ↔ n < 4 := fun n => by simp; omega
  rw [usedPin, Bool.and_eq_true, slotOf, List.find?_isSome]
  refine and_congr ?_ Iff.rfl
  simp only [hmem, inSlot, Bool.and_eq_true, decide_eq_true_eq]

theorem State.pin_armSuccess (s : State) {c : Nat} (hc : c < 1024) :
    s.armSuccess.pin c = .cleared (if usedPin s.recipe.shadow s.stroke.latched c then .good else .unused) := by
  rw [State.pin_congr (s := s.clearPins) (by simp [State.armSuccess])]
  simp [State.pin, State.clearPins, Vector.getD, hc]

/-- The condition of R89 that holds first. -/
theorem State.endRefusal_cases (s : State) :
    (s.recipe.sum ≠ Plan.word s.stroke.latched 4 → s.endRefusal = some .checksum) ∧
    (s.recipe.sum = Plan.word s.stroke.latched 4 →
      let thawed := (Plan.word s.stroke.latched 0).getLsbD 21 = true ∧ (s.freezeEnvelopes = false ∨ s.freezeMap = false)
      (thawed → s.endRefusal = some .unfrozen) ∧
      (¬ thawed →
        let halted := s.lines.haltLatch = true ∨ s.lines.force = .forcedOn
        (halted → s.endRefusal = some .halted) ∧
        (¬ halted → s.endRefusal =
          if s.lines.pressAbort then some .pressNotReady else if s.irqLine then some .eventPending else none))) := by
  refine ⟨fun h => if_pos h, fun hsum => ?_⟩
  have hskip : s.endRefusal =
      if Plan.requireFreeze s.stroke.latched && !(s.freezeEnvelopes && s.freezeMap) then some .unfrozen
      else if s.lines.haltLatch || s.lines.force == .forcedOn then some .halted
      else if s.lines.pressAbort then some .pressNotReady else if s.irqLine then some .eventPending else none :=
    if_neg (not_not.mpr hsum)
  have hthaw : ((Plan.requireFreeze s.stroke.latched && !(s.freezeEnvelopes && s.freezeMap)) = true) ↔
      (Plan.word s.stroke.latched 0).getLsbD 21 = true ∧ (s.freezeEnvelopes = false ∨ s.freezeMap = false) := by
    cases s.freezeEnvelopes <;> cases s.freezeMap <;> simp [Plan.requireFreeze]
  have hhalt : ((s.lines.haltLatch || s.lines.force == .forcedOn) = true) ↔
      s.lines.haltLatch = true ∨ s.lines.force = .forcedOn := by simp
  dsimp only
  rw [hskip, ← hthaw, ← hhalt]
  exact ⟨fun h => if_pos h, fun h => ⟨fun h' => by rw [if_neg h, if_pos h'], fun h' => by rw [if_neg h, if_neg h']⟩⟩

theorem exec_armingWalkEnd {s : State} (hs : s.stroke.state = .arming) (hw : s.stroke.walk = .finished) :
    exec .armingWalkEnd s = .next s.armingEnd := congrArg Host.Outcome.next (if_pos ⟨hs, hw⟩)

/-- Settles O41: the end of the walk refuses by the first condition that holds, or succeeds. -/
theorem endOfWalk : Obligations.EndOfWalk := by
  refine ⟨fun s hs hw ho => ?_, fun s hs hw hsum hfreeze hlatch hforce hpress hirq => ?_⟩
  · have hrefuse : ∀ why, s.endRefusal = some why → ∃ t, exec .armingWalkEnd s = .next t ∧
        t.refusals = s.refusals ++
          [{ strokeNumber := s.strokeNumber, reason := why, detailKind := .none, detailIndex := 0 }] ∧
        (s.stroke.pendingPlan = none → t.stroke.state = .idle) ∧
        (∀ q, s.stroke.pendingPlan = some q → t.stroke.state = .arming ∧ t.stroke.latched = q) ∧
        t.stroke.pendingPlan = none ∧ t.checker = s.checker ∧ t.remap = s.remap ∧ t.walker = s.walker ∧
        t.stroke.samplesTaken = s.stroke.samplesTaken ∧ t.stroke.stepsTaken = s.stroke.stepsTaken ∧
        t.stroke.outcome = s.stroke.outcome ∧ t.stroke.armTimer = s.stroke.armTimer := fun why he => by
      obtain ⟨h1, h2, h3, h4, -, -, h7⟩ := s.refuseArming_counts (s.refusalOf why)
      obtain ⟨hnone, hsome⟩ := s.refuseArming_next (s.refusalOf why)
      refine ⟨_, (exec_armingWalkEnd hs hw).trans (by rw [State.armingEnd, he]; rfl), State.refuseArming_refusals s _ ho,
        fun h => (hnone h).1, fun q h => ⟨(hsome q h).1, (hsome q h).2.1⟩, h7, by simp, by simp, by simp, h1, h2, h3, h4⟩
    obtain ⟨hbad, hgood⟩ := s.endRefusal_cases
    refine ⟨fun h => hrefuse _ (hbad h), fun h ht => hrefuse _ ((hgood (not_not.mp h)).1 ht),
      fun h ht hh => hrefuse _ (((hgood (not_not.mp h)).2 ht).1 hh), fun h ht hh hp => hrefuse _ ?_,
      fun h ht hh hp hi => hrefuse _ ?_⟩
    · rw [((hgood (not_not.mp h)).2 ht).2 hh, if_pos hp]
    · rw [((hgood (not_not.mp h)).2 ht).2 hh, if_neg hp, if_pos hi]
  · have hnone : s.endRefusal = none := by
      obtain ⟨-, hthaw⟩ := s.endRefusal_cases.2 hsum
      have ht : ¬ ((Plan.word s.stroke.latched 0).getLsbD 21 = true ∧ (s.freezeEnvelopes = false ∨ s.freezeMap = false)) :=
        fun ⟨hreq, h⟩ => by simp [hfreeze hreq] at h
      rw [(hthaw ht).2 (by simp [hlatch, hforce]), hpress, hirq]
      rfl
    have hdirty : s.armSuccess.writer = { s.writer with dirty := true } := by
      simp [State.armSuccess, hs]
    refine ⟨_, (exec_armingWalkEnd hs hw).trans (by rw [State.armingEnd, hnone]), by simp [State.armSuccess],
      by simp [State.armSuccess], s.armSuccess_queue, fun c hc => ?_, fun n => ?_, by simp [State.armSuccess, State.clearPins],
      by simp [State.armSuccess], by simp [State.armSuccess], hdirty, by simp [State.armSuccess], by simp [State.armSuccess], ?_⟩
    · dsimp only
      rw [← usedPin_iff, s.pin_armSuccess hc]
      exact ⟨fun h => by rw [if_pos h], fun h => by rw [if_neg h]⟩
    · simpa [State.slotFailing, State.armSuccess, State.clearPins] using slotFailing_replicate n
    · have hhalt : s.armSuccess.haltLine = false := by
        have hl : s.armSuccess.lines = s.lines := by simp [State.armSuccess]
        unfold State.haltLine
        rw [hl]
        cases hf : s.lines.force with
        | none => exact hlatch
        | forcedOn => exact absurd hf hforce
        | forcedOff => rfl
      have hlatched : s.armSuccess.stroke.latched = s.stroke.latched := by simp [State.armSuccess]
      simp [State.rdyLine, State.armSuccess_armed, hhalt, Plan.source, hlatched]

end Sys2Proof.Machine

/-! PROOFS. Statements about the writes to the control region: the commands, the plan record, arming requests and the words of the
command area. -/

namespace Sys2Proof.Machine

/-! ## Bytes of a beat -/

theorem getLsbD_byteOf (w : Word) (i k : Nat) : (byteOf w i).getLsbD k = (decide (k < 8) && w.getLsbD (8 * i + k)) := by
  simp [byteOf]

/-- A word after a beat, bit by bit (R81). -/
theorem getLsbD_mergeBeat (old : Word) (b : Beat) (i : Fin 32) :
    (mergeBeat old b).getLsbD i = if b.enable.getLsbD (i / 8) then b.data.getLsbD i else old.getLsbD i := by
  simp only [mergeBeat, BitVec.getLsbD_or, BitVec.getLsbD_and, BitVec.getLsbD_not, getLsbD_enableMask, i.isLt, decide_true,
    Bool.true_and]
  cases b.enable.getLsbD (i / 8) <;> simp

/-- A word after a beat, byte by byte (R81). -/
theorem byteOf_mergeBeat (old : Word) (b : Beat) (i : Fin 4) :
    byteOf (mergeBeat old b) i = if b.enable.getLsbD i then byteOf b.data i else byteOf old i := by
  refine BitVec.eq_of_getLsbD_eq fun k hk => ?_
  have hbit := getLsbD_mergeBeat old b ⟨8 * i + k, by omega⟩
  have hdiv : (8 * i.val + k) / 8 = i.val := by omega
  simp only [hdiv] at hbit
  rw [getLsbD_byteOf, hbit, apply_ite (BitVec.getLsbD · k), getLsbD_byteOf, getLsbD_byteOf]
  split <;> rfl

/-- The value of a command beat, byte by byte (R144). -/
theorem byteOf_commandCode (b : Beat) (i : Fin 4) :
    byteOf (commandCode b) i = if b.enable.getLsbD i then byteOf b.data i else 0#8 := by
  have h : commandCode b = mergeBeat 0#32 b := by simp [commandCode, mergeBeat]
  rw [h, byteOf_mergeBeat]
  simp [byteOf]

/-! ## RELEASE and unknown commands -/

theorem State.recorded_setProtection (s : State) (v : BitVec 4) (code : Word) (r : CommandResult) :
    (s.setProtection v).recorded code r = ({ s with protection := v }).recorded code r := by
  rw [State.setProtection, State.dirtyIf_eq]
  rfl

theorem exec_release {s : State} (hs : s.serves) : exec (.release (s.oneBeat 0x2420 (fullBeat 6))) s =
    .next ((s.release.1.recorded 6 s.release.2).forward .s (.write (s.oneBeat 0x2420 (fullBeat 6)))) := by
  have hact : s.ownerActs (fullBeat 6) = s.release := rfl
  rw [exec_command rfl hs, hact]

/-- Settles O15: the conditions of RELEASE, in order. -/
theorem releaseInOrder : Obligations.ReleaseInOrder := by
  refine fun s hs => ⟨fun hf => ?_, fun hf hi => ?_, fun hf hi hne => ?_, fun hf hi hc hq ho => ?_⟩
  · rw [exec_release hs, State.release, if_pos hf]
  · rw [exec_release hs, State.release, if_neg (by simp [hf]), if_pos hi]
  · rw [exec_release hs, State.release, if_neg (by simp [hf]), if_neg (not_not.mpr hi), if_pos hne]
  · rw [exec_release hs, State.release, if_neg (by simp [hf]), if_neg (not_not.mpr hi), if_neg (by simp [hc, hq, ho]),
      State.recorded_setProtection]

theorem beat_full_iff (b : Beat) : b.full = true ↔ b.enable = 0xF#4 := beq_iff_eq

/-- A beat that is no command of the six has no owner (R144). -/
theorem State.ownerActs_unknown (s : State) {b : Beat} (h : b.enable ≠ 0xF#4 ∨ b.data.toNat = 0 ∨ 6 < b.data.toNat) :
    s.ownerActs b = (s, .unknown) := by
  unfold State.ownerActs
  by_cases hb : b.full = true
  · have hcode : b.data.toNat = 0 ∨ 6 < b.data.toNat := h.resolve_left (not_not.mpr ((beat_full_iff b).mp hb))
    rw [if_pos hb]
    split <;> first | rfl | omega
  · rw [if_neg hb]

/-- Settles O16. -/
theorem unknownCommandRecorded : Obligations.UnknownCommandRecorded := by
  refine fun s b hs h => ⟨commandCode b, ?_, byteOf_commandCode b⟩
  rw [exec_commandArea rfl hs (by decide) (by decide) (by decide), State.controlBeat_command, State.command_eq_recorded,
    s.ownerActs_unknown h]

/-! ## The plan record -/

/-- No freeze flag, status block or protection word lies in the plan record (R161). -/
theorem dropsBeat_plan (s : State) {off : Nat} (b : Beat) (hlow : 0x2400 ≤ off) (hhigh : off < 0x2420) :
    s.dropsBeat (off, b) = false := by
  have hfrozen : s.frozenAt off = false := by
    rw [State.frozenAt, if_neg (by omega), if_neg (by omega), if_neg (by omega)]
  have hstatus : ¬ Config.statusOffset ≤ off := by simp only [Config.statusOffset]; omega
  have hprotection : off ≠ Config.protectionOffset := by simp only [Config.protectionOffset]; omega
  simp [State.dropsBeat, hfrozen, hstatus, hprotection]

theorem planIndex_eq (i : Fin 8) : planIndex (0x2400 + 4 * i) = i := by
  simp only [planIndex]; omega

/-- The staging copy after a beat to the plan word of index i (R81). -/
theorem State.stagePlan_eq (s : State) (i : Fin 8) (b : Beat) : s.stagePlan (0x2400 + 4 * i) b =
    { s with recipe := { s.recipe with staging := s.recipe.staging.set i (mergeBeat s.recipe.staging[i] b) } } := by
  have hset : ∀ (v : Plan) (x : Word), v.setIfInBounds i x = v.set i x := fun v x => by
    ext j hj
    simp [Vector.getElem_setIfInBounds, Vector.getElem_set]
  simp only [State.stagePlan, planIndex_eq, hset]
  simp [Vector.getD]

theorem State.controlBeat_plan (s : State) {off : Nat} (b : Beat) (h : off < 0x2420) :
    s.controlBeat (off, b) = if armsAt (off, b) then (s.stagePlan off b).armRequest else s.stagePlan off b :=
  if_pos h

theorem armsAt_iff (off : Nat) (b : Beat) : armsAt (off, b) = true ↔ off = 0x241C ∧ b.enable = 0xF#4 ∧ b.data = 1#32 := by
  simp [armsAt, Config.goOffset, Beat.full, and_assoc]

/-- Settles O21. -/
theorem planWriteStages : Obligations.PlanWriteStages := by
  intro s i b hs hgo
  have harms : armsAt (0x2400 + 4 * i.val, b) = false := by
    rw [← Bool.not_eq_true, armsAt_iff]
    exact fun ⟨ho, h⟩ => hgo ⟨Fin.ext (by change i.val = 7; omega), h⟩
  refine ⟨mergeBeat s.recipe.staging[i] b, ?_, byteOf_mergeBeat _ b⟩
  rw [exec_oneBeat rfl hs (by omega) (by omega) (dropsBeat_plan s b (by omega) (by omega)) (by simp [harms]),
    takeControl_single _ _ _ (by simp only [Config.recipeBytes]; omega), s.controlBeat_plan b (by omega), harms,
    State.stagePlan_eq]
  rfl

end Sys2Proof.Machine

/-! PROOFS. The raising of an event flag, with and without the notice it gives, and the consumer index. -/

namespace Sys2Proof.Machine

@[simp] theorem State.portS_setPort (s : State) (np : NearPort) : (s.setPort .s np).portS = np := rfl

@[simp] theorem State.portA_setPort (s : State) (np : NearPort) : (s.setPort .a np).portA = np := rfl

/-! ## Raising a flag -/

/-- The state after a flag is set (R135). -/
theorem State.setFlag_eq (s : State) (f : EventFlag) : s.setFlag f = { s with
    lines := { s.lines with flags := s.lines.flags ||| BitVec.twoPow 9 f.bit }
    writer := { s.writer with dirty := s.writer.dirty || !s.flagSet f } } := by
  have hl := s.setFlag_lines f
  have hw := s.setFlag_writer f
  unfold State.setFlag at hl hw ⊢
  split
  · next h => rw [if_pos h] at hl hw; rw [← hl, ← hw]
  · next h => rw [if_neg h] at hl hw; rw [← hl, ← hw]; rfl

theorem EventFlag.bit_inj {f g : EventFlag} (h : f.bit = g.bit) : f = g := by
  cases f <;> cases g <;> first | rfl | exact absurd h (by decide)

theorem State.flagSet_setFlag (s : State) (f g : EventFlag) : (s.setFlag f).flagSet g = (s.flagSet g || decide (g = f)) := by
  have hbit : decide (g.bit = f.bit) = decide (g = f) :=
    decide_eq_decide.mpr ⟨EventFlag.bit_inj, fun h => by rw [h]⟩
  simp [State.flagSet, hbit, g.bit_lt]

/-- A flag rose while enabled (R138). -/
theorem State.rose_iff (s : State) (before : BitVec 9) : s.rose before = true ↔
    ∃ f : EventFlag, s.flagSet f = true ∧ before.getLsbD f.bit = false ∧ s.lines.enables.getLsbD f.bit = true := by
  rw [State.rose, bne_iff_ne, flags_ne_zero_iff]
  simp [State.flagSet, EventFlag.bit_lt, and_assoc]

theorem State.rose_setFlag_iff (s : State) (f : EventFlag) : (s.setFlag f).rose s.lines.flags = true ↔
    s.flagSet f = false ∧ s.lines.enables.getLsbD f.bit = true := by
  rw [State.rose_iff]
  constructor
  · rintro ⟨g, hg, hclear, hen⟩
    have hc : s.flagSet g = false := hclear
    rw [State.flagSet_setFlag, hc, Bool.false_or, decide_eq_true_eq] at hg
    subst hg
    exact ⟨hc, by simpa using hen⟩
  · exact fun ⟨hc, hen⟩ => ⟨f, by simp [State.flagSet_setFlag], hc, by simpa using hen⟩

/-- A raise that gives a notice in ARMING abandons the arming (R91, R138). -/
theorem State.raise_of_noticed {s : State} {f : EventFlag}
    (h : s.stroke.state = .arming ∧ s.flagSet f = false ∧ s.lines.enables.getLsbD f.bit = true) :
    s.raise f = (s.setFlag f).abandonArming := by
  rw [State.raise, State.notice, if_pos ⟨(s.rose_setFlag_iff f).mpr h.2, by simpa using h.1⟩]

/-- A raise without a notice sets the flag and no more. -/
theorem State.raise_of_unnoticed {s : State} {f : EventFlag}
    (h : ¬ (s.stroke.state = .arming ∧ s.flagSet f = false ∧ s.lines.enables.getLsbD f.bit = true)) :
    s.raise f = s.setFlag f := by
  rw [State.raise, State.notice, if_neg]
  rintro ⟨hrose, hs⟩
  exact h ⟨by simpa using hs, (s.rose_setFlag_iff f).mp hrose⟩

/-- A set flag stays set in an arming that is refused. -/
theorem State.flagSet_refuseArming {s : State} {f : EventFlag} (r : RefusalRecord) (h : s.flagSet f = true) :
    (s.refuseArming r).flagSet f = true := by
  unfold State.flagSet at h ⊢
  rw [State.refuseArming_lines]
  split
  · simp [h]
  · exact h

theorem State.flagSet_notice {s : State} {f : EventFlag} (b : BitVec 9) (h : s.flagSet f = true) : (s.notice b).flagSet f = true := by
  unfold State.notice
  split
  · exact State.flagSet_refuseArming _ h
  · exact h

theorem State.flagSet_raise (s : State) (f : EventFlag) : (s.raise f).flagSet f = true :=
  State.flagSet_notice _ (by simp [State.flagSet_setFlag])

/-- A raise that gives a notice in ARMING abandons the arming of the state before it. -/
theorem State.raise_abandonedTo {s : State} {f : EventFlag} (ho : s.owedOk)
    (h : s.stroke.state = .arming ∧ s.flagSet f = false ∧ s.lines.enables.getLsbD f.bit = true) : s.abandonedTo (s.raise f) := by
  rw [State.raise_of_noticed h]
  exact State.abandonedTo_of ho (u := s.setFlag f) (by simp) (by simp) rfl rfl (by simp) (by simp)

/-! ## The ring consumer index -/

theorem validCapacity_iff (n : Nat) : validCapacity n = true ↔ ∃ e, 4 ≤ e ∧ e ≤ 12 ∧ n = 2 ^ e := by
  rw [validCapacity, List.contains_iff_mem]
  constructor
  · intro h
    simp only [List.mem_cons, List.not_mem_nil, or_false] at h
    obtain h | h | h | h | h | h | h | h | h := h
    exacts [⟨4, by omega, by omega, h⟩, ⟨5, by omega, by omega, h⟩, ⟨6, by omega, by omega, h⟩, ⟨7, by omega, by omega, h⟩,
      ⟨8, by omega, by omega, h⟩, ⟨9, by omega, by omega, h⟩, ⟨10, by omega, by omega, h⟩, ⟨11, by omega, by omega, h⟩,
      ⟨12, by omega, by omega, h⟩]
  · rintro ⟨e, hlow, hhigh, rfl⟩
    interval_cases e <;> simp

theorem testBit_field (w : Word) (lo len i : Nat) : (field w lo len).testBit i = (decide (i < len) && w.getLsbD (lo + i)) := by
  rw [field, BitVec.testBit_toNat, BitVec.getLsbD_extractLsb']

/-- A number laid at bit 0 of a word keeps its low bits (R145). -/
theorem getLsbD_place_zero (v len i : Nat) (hi : i < len) (hl : len ≤ 32) : (place v 0 len).getLsbD i = v.testBit i := by
  rw [place, BitVec.getLsbD_ofNat, Nat.pow_zero, Nat.mul_one, Nat.testBit_mod_two_pow]
  simp [hi, show i < 32 by omega]

/-- The requested consumer index is the value whose bits the beat and the current consumer give (R186). -/
theorem State.requestedConsumer_eq {s : State} {b : Beat} {v : Nat} (hv : v < 4096)
    (h : ∀ i < 12, v.testBit i = if b.enable.getLsbD (i / 8) then b.data.getLsbD i else s.writer.consumer.testBit i) :
    s.requestedConsumer b = v := by
  refine Nat.eq_of_testBit_eq fun i => ?_
  rw [State.requestedConsumer, testBit_field, Nat.zero_add]
  by_cases hi : i < 12
  · rw [getLsbD_mergeBeat _ b ⟨i, by omega⟩, h i hi, getLsbD_place_zero _ _ _ hi (by omega)]
    simp [hi]
  · have : v.testBit i = false := Nat.testBit_lt_two_pow (lt_of_lt_of_le hv (Nat.pow_le_pow_right (n := 2) (by omega) (not_lt.mp hi)))
    simp [hi, this]

theorem dropsBeat_consumer (s : State) (b : Beat) : s.dropsBeat (0x2430, b) = false := by
  simp [State.dropsBeat, State.frozenAt, Config.statusOffset, Config.protectionOffset]

theorem State.controlBeat_consumer (s : State) (b : Beat) : s.controlBeat (0x2430, b) = s.writeConsumer b := by
  simp [State.controlBeat, Config.commandOffset, Config.acknowledgeOffset, Config.enableOffset, Config.protectionOffset,
    Config.consumerOffset]

theorem exec_ringConsumerIndexWrite {s : State} (b : Beat) (hs : s.serves) :
    exec (.ringConsumerIndexWrite (s.oneBeat 0x2430 b)) s =
      .next ((s.writeConsumer b).forward .s (.write (s.oneBeat 0x2430 b))) := by
  rw [exec_oneBeat rfl hs (by decide) (by decide) (dropsBeat_consumer s b) (by simp [armsAt, Config.goOffset]),
    takeControl_single _ _ _ (by decide), State.controlBeat_consumer]

theorem State.inSpan_iff (s : State) (v : Nat) : s.inSpan v = true ↔ v < s.ringCapacity ∧
    (v + s.ringCapacity - s.writer.consumer) % s.ringCapacity ≤
      (s.writer.producer + s.ringCapacity - s.writer.consumer) % s.ringCapacity := by
  rw [State.inSpan, State.occupancy, Bool.and_eq_true, decide_eq_true_eq, decide_eq_true_eq]

/-- Settles O20: the index moves within the span, and outside it INDEX is raised. -/
theorem consumerIndexInSpan : Obligations.ConsumerIndexInSpan := by
  refine ⟨fun s => ⟨fun h => ?_, fun h => ?_⟩, fun s b v hs hv hbits => ⟨fun hin => ?_, fun hout hn => ?_, fun hout hn ho => ?_⟩⟩
  · rw [State.ringCapacity, ringCapacityField, geometryWord, if_pos ((validCapacity_iff _).mpr h)]
  · rw [State.ringCapacity, ringCapacityField, geometryWord, if_neg (mt (validCapacity_iff _).mp h)]
  · rw [exec_ringConsumerIndexWrite b hs, State.writeConsumer, State.requestedConsumer_eq hv hbits,
      if_pos ((s.inSpan_iff v).mpr hin), State.dirtyIf_eq]
  all_goals
    rw [exec_ringConsumerIndexWrite b hs, State.writeConsumer, State.requestedConsumer_eq hv hbits,
      if_neg (mt (s.inSpan_iff v).mp hout)]
  · rw [State.raise_of_unnoticed hn, State.setFlag_eq]
    rfl
  · have habandon := State.raise_abandonedTo ho hn
    refine ⟨_, rfl, ?_, ?_, ?_, ?_⟩
    · simpa [State.abandonedTo, State.refusals, State.forward] using habandon
    · simpa [State.flagSet] using s.flagSet_raise .index
    · simp
    · simp [State.forward]

end Sys2Proof.Machine

/-! PROOFS. Writes to the control region that are dropped, held for the refusal entry, or taken, and arming requests. -/

namespace Sys2Proof.Machine

/-! ## The beats of a write -/

theorem any_beatsFrom_iff (f : Nat × Beat → Bool) (off : Nat) (bs : List Beat) : (beatsFrom off bs).any f = true ↔
    ∃ j b, bs[j]? = some b ∧ f (off + 4 * j, b) = true := by
  induction bs generalizing off with
  | nil => simp [beatsFrom]
  | cons b bs ih =>
    rw [beatsFrom, List.any_cons, Bool.or_eq_true, ih]
    constructor
    · rintro (h | ⟨j, x, hx, h⟩)
      · exact ⟨0, b, rfl, h⟩
      · exact ⟨j + 1, x, hx, by rwa [show off + 4 * (j + 1) = off + 4 + 4 * j by omega]⟩
    · rintro ⟨j, x, hx, h⟩
      cases j with
      | zero =>
        obtain rfl : b = x := Option.some.inj hx
        exact .inl h
      | succ j => exact .inr ⟨j, x, hx, by rwa [show off + 4 + 4 * j = off + 4 * (j + 1) by omega]⟩

/-- A write carries an arming request (R82). -/
theorem any_armsAt_iff (off : Nat) (bs : List Beat) : (beatsFrom off bs).any armsAt = true ↔
    ∃ j b, bs[j]? = some b ∧ off + 4 * j = 0x241C ∧ b.enable = 0xF#4 ∧ b.data = 1#32 := by
  rw [any_beatsFrom_iff]
  simp only [armsAt_iff]

theorem State.frozenAt_iff (s : State) (off : Nat) : s.frozenAt off = true ↔
    (off < 0x100 ∧ s.freezeMap = true) ∨ (0x100 ≤ off ∧ off < 0x1400 ∧ s.freezeEnvelopes = true) ∨
      (0x1400 ≤ off ∧ off < 0x2400 ∧ s.freezeMap = true) := by
  unfold State.frozenAt
  split
  · simp [*, show ¬ 0x100 ≤ off by omega, show ¬ 0x1400 ≤ off by omega]
  · split
    · simp [*, show 0x100 ≤ off by omega, show ¬ 0x1400 ≤ off by omega]
    · split
      · simp [*, show ¬ off < 0x1400 by omega, show 0x1400 ≤ off by omega]
      · simp [*]

theorem State.wouldClear_iff (s : State) (b : Beat) : s.wouldClear b = true ↔
    b.enable.getLsbD 0 = true ∧ s.protection &&& ~~~(b.data.extractLsb' 0 4) ≠ 0#4 := by
  rw [State.wouldClear, Bool.and_eq_true, bne_iff_ne]
  exact and_congr_right fun h => by rw [requested, if_pos h]

/-- What makes a beat drop its write (R161). -/
theorem State.dropsBeat_iff (s : State) (off : Nat) (b : Beat) : s.dropsBeat (off, b) = true ↔
    (0x2480 ≤ off ∧ off < 0x24C0) ∨ s.frozenAt off = true ∨
      (off = 0x242C ∧ b.enable.getLsbD 0 = true ∧ s.protection &&& ~~~(b.data.extractLsb' 0 4) ≠ 0#4) := by
  rw [State.dropsBeat, Bool.or_eq_true, Bool.or_eq_true, Bool.and_eq_true, Bool.and_eq_true, decide_eq_true_eq, decide_eq_true_eq,
    beq_iff_eq, State.wouldClear_iff, or_assoc]
  exact Iff.rfl

theorem State.dropDecision_iff (s : State) (p : PortId) (off : Nat) (bs : List Beat) : s.dropDecision p off bs = true ↔
    p = .a ∨ ∃ j b, bs[j]? = some b ∧ s.dropsBeat (off + 4 * j, b) = true := by
  rw [State.dropDecision, Bool.or_eq_true, any_beatsFrom_iff, beq_iff_eq]

/-! ## A refused write -/

theorem State.captureRefused_eq (s : State) (a : Word) : s.captureRefused a = { s with
    lines := { s.lines with firstRefused := if s.flagSet .protect || s.flagSet .stray then s.lines.firstRefused else a }
    writer := { s.writer with dirty := s.writer.dirty || !(s.flagSet .protect || s.flagSet .stray) } } := by
  unfold State.captureRefused
  split
  · next h => simp [h]
  · next h => simp [h, State.markDirty]

theorem State.flagSet_captureRefused (s : State) (a : Word) (f : EventFlag) : (s.captureRefused a).flagSet f = s.flagSet f := by
  rw [State.captureRefused_eq]
  rfl

/-- A refused write that gives no notice (R135, R139). -/
theorem State.refuseWrite_of_unnoticed {s : State} {f : EventFlag} (a : Word) (hf : f = .protect ∨ f = .stray)
    (h : ¬ (s.stroke.state = .arming ∧ s.flagSet f = false ∧ s.lines.enables.getLsbD f.bit = true)) :
    s.refuseWrite f a = { s with
      lines := { s.lines with
        flags := s.lines.flags ||| BitVec.twoPow 9 f.bit
        firstRefused := if s.flagSet .protect || s.flagSet .stray then s.lines.firstRefused else a }
      writer := { s.writer with dirty := s.writer.dirty || !s.flagSet f } } := by
  have hun : ¬ ((s.captureRefused a).stroke.state = .arming ∧ (s.captureRefused a).flagSet f = false ∧
      (s.captureRefused a).lines.enables.getLsbD f.bit = true) := by
    simpa [State.flagSet_captureRefused] using h
  have hdirty : (!(s.flagSet .protect || s.flagSet .stray) || !s.flagSet f) = !s.flagSet f := by
    obtain rfl | rfl := hf <;> cases s.flagSet .protect <;> cases s.flagSet .stray <;> rfl
  rw [State.refuseWrite, State.raise_of_unnoticed hun, State.setFlag_eq, State.flagSet_captureRefused, State.captureRefused_eq]
  simp only [Bool.or_assoc, hdirty]

/-- A refused write that gives a notice in ARMING (R91, R135, R139). -/
theorem State.refuseWrite_of_noticed {s : State} {f : EventFlag} (a : Word) (ho : s.owedOk)
    (h : s.stroke.state = .arming ∧ s.flagSet f = false ∧ s.lines.enables.getLsbD f.bit = true) :
    s.abandonedTo (s.refuseWrite f a) ∧ (s.refuseWrite f a).flagSet f = true ∧ (s.refuseWrite f a).lines.firstRefused =
      if s.flagSet .protect || s.flagSet .stray then s.lines.firstRefused else a := by
  have hn : (s.captureRefused a).stroke.state = .arming ∧ (s.captureRefused a).flagSet f = false ∧
      (s.captureRefused a).lines.enables.getLsbD f.bit = true := by
    simpa [State.flagSet_captureRefused] using h
  refine ⟨?_, State.flagSet_raise _ f, ?_⟩
  · rw [State.refuseWrite, State.raise_of_noticed hn]
    exact State.abandonedTo_of ho (u := (s.captureRefused a).setFlag f) (by simp) (by simp [State.captureRefused_queue]) rfl rfl
      (by simp) (by simp)
  · rw [State.refuseWrite, State.raise_of_noticed hn, State.abandonArming, State.refuseArming_lines]
    split <;> simp [State.captureRefused_eq]

/-- The answer at a port touches nothing an abandoned arming speaks of. -/
theorem State.abandonedTo_answer {s t : State} {p : PortId} {x : Answer} (h : s.abandonedTo t) : s.abandonedTo (t.answer p x) := by
  cases p <;> exact h

/-! ## The decision on a control-region write -/

theorem exec_controlWrite {c : Instr} {p : PortId} {w : Write} {s : State} (hc : requestOf c = some (p, .write w)) (ho : s.portOpen p)
    (hw : (Request.write w).wellFormed = true) (hr : s.inRegion w.addr.toNat = true) (hl : s.stroke.state ≠ .loading) :
    exec c s = .next (s.controlWrite p w) := by
  rw [exec_request_open hc ho hw, classify_control hr hl]

theorem State.controlWrite_dropped {s : State} {p : PortId} {w : Write}
    (hd : s.dropDecision p (w.addr.toNat - s.regionBase) w.beats = true) :
    s.controlWrite p w = (s.refuseWrite .protect w.addr).answer p .dropped := by
  simp [State.controlWrite, hd]

theorem State.controlWrite_held {s : State} {p : PortId} {w : Write}
    (hd : s.dropDecision p (w.addr.toNat - s.regionBase) w.beats = false)
    (ha : (beatsFrom (w.addr.toNat - s.regionBase) w.beats).any armsAt = true) (ho : s.refusalOccupied = true) :
    s.controlWrite p w = s.waitAt p (.write w) .refusalEntry := by
  simp [State.controlWrite, hd, ha, ho]

/-- Settles O24. -/
theorem droppedControlWrite : Obligations.DroppedControlWrite := by
  intro c p w s hc ho hw hr hl start causes waits first noticed
  have hcauses : s.dropDecision p start w.beats = true ↔ causes := by
    simp only [causes, State.dropDecision_iff, State.dropsBeat_iff, State.frozenAt_iff, or_assoc]
  have hwaits : waits ↔ s.refusalOccupied = true ∧ (beatsFrom start w.beats).any armsAt = true := by
    simp only [waits, any_armsAt_iff]
  have hexec := exec_controlWrite hc ho hw hr hl
  refine ⟨hcauses, fun h hn => ?_, fun h hn howed => ?_, fun h hwait => ?_, fun h hwait => ?_⟩
  · rw [hexec, State.controlWrite_dropped (hcauses.mpr h), State.refuseWrite_of_unnoticed w.addr (.inl rfl) hn]
    refine congrArg Host.Outcome.next ?_
    rw [State.answer_of_free (by cases p <;> exact ho.1)]
    cases p <;> rfl
  · obtain ⟨habandon, hflag, hfirst⟩ := State.refuseWrite_of_noticed w.addr howed hn
    refine ⟨_, hexec.trans (by rw [State.controlWrite_dropped (hcauses.mpr h)]), State.abandonedTo_answer habandon, ?_, ?_,
      by simp, by simp, by simp, ?_⟩
    · simpa [State.flagSet] using hflag
    · exact Eq.trans (by simp) hfirst
    · rw [State.port_answer_self, State.port_congr (s := s) (by simp) (by simp)]
      rw [← ho.1]
  · have hp : p = .s := by
      cases p with
      | a => exact absurd (.inl rfl) h
      | s => rfl
    subst hp
    rw [hexec, controlWrite_taken (by simpa using mt hcauses.mp h)]
    have := mt hwaits.mpr hwait
    rw [← Bool.not_eq_true, Bool.and_eq_true, And.comm]
    exact this
  · have hp : p = .s := by
      cases p with
      | a => exact absurd (.inl rfl) h
      | s => rfl
    subst hp
    obtain ⟨hocc, harm⟩ := hwaits.mp hwait
    rw [hexec, State.controlWrite_held (by simpa using mt hcauses.mp h) harm hocc]
    rfl

/-- A beat of a plain word of the region does nothing (R142). -/
theorem State.controlBeat_plain (s : State) {off : Nat} (b : Beat) (h : 0x2434 ≤ off) : s.controlBeat (off, b) = s := by
  simp [State.controlBeat, Config.commandOffset, Config.acknowledgeOffset, Config.enableOffset, Config.protectionOffset,
    Config.consumerOffset, show ¬ off < 9248 by omega, show off ≠ 9248 by omega, show off ≠ 9252 by omega,
    show off ≠ 9256 by omega, show off ≠ 9260 by omega, show off ≠ 9264 by omega]

theorem State.controlBeats_plain (s : State) {off : Nat} (bs : List Beat) (h : 0x2434 ≤ off) : s.controlBeats (beatsFrom off bs) = s := by
  induction bs generalizing off with
  | nil => rfl
  | cons b bs ih => rw [beatsFrom, State.controlBeats, s.controlBeat_plain b h, ih (by omega)]

/-- Settles O25. -/
theorem takenControlWrite : Obligations.TakenControlWrite := by
  refine ⟨⟨fun c w s hc hs hw hr hd ha => ?_, fun s off b bs h => ?_⟩, fun w s hs hw hr hoff => ?_⟩
  · rw [exec_controlWrite hc hs.1 hw hr hs.2, controlWrite_taken hd]
    rw [← Bool.not_eq_true, Bool.and_eq_true, any_armsAt_iff]
    rintro ⟨⟨j, b, hb, h⟩, hocc⟩
    obtain hfree | hnone := ha
    · simp [hfree] at hocc
    · exact hnone j b hb h
  · have hlow : ∀ k, Config.recipeBytes ≤ k → ∀ (u : State) (l : List Beat), u.takeControl k l = u.controlBeats (beatsFrom k l) :=
      fun k hk u l => if_neg (not_lt.mpr hk)
    rw [hlow off h, takeControl_single _ _ _ h, hlow (off + 4) (by omega)]
    rfl
  · dsimp only at hoff
    have hlow : 0x2434 ≤ w.addr.toNat - s.regionBase := by omega
    obtain ⟨halign, -, hcount, hline⟩ := (Request.wellFormed_iff _).mp hw
    simp only [Request.addr, Request.count] at halign hcount hline
    have hbase : s.regionBase % 64 = 0 := by simp only [State.regionBase, Config.regionSpacing]; omega
    rw [exec_controlWrite (c := .controlRegionWrite .s w) rfl hs.1 hw hr hs.2, controlWrite_taken, State.takeControl,
      if_neg (by simp only [Config.recipeBytes]; omega), s.controlBeats_plain w.beats hlow]
    · rw [← Bool.not_eq_true, State.dropDecision_iff]
      rintro (h | ⟨j, b, hb, h⟩)
      · cases h
      · have hj : j < w.beats.length := (List.getElem?_eq_some_iff.mp hb).1
        rw [State.dropsBeat_iff, State.frozenAt_iff] at h
        omega
    · rw [← Bool.not_eq_true, Bool.and_eq_true, any_armsAt_iff]
      rintro ⟨⟨j, b, hb, h, -⟩, -⟩
      omega

end Sys2Proof.Machine

/-! PROOFS. Arming requests: a plan latched, or pending in the place of another. -/

namespace Sys2Proof.Machine

theorem mergeBeat_full (old w : Word) : mergeBeat old (fullBeat w) = w := by
  have hmask : enableMask 0xF#4 = BitVec.allOnes 32 := by decide
  rw [mergeBeat, fullBeat, hmask, BitVec.and_allOnes, BitVec.not_allOnes, BitVec.and_zero, BitVec.or_zero]

/-- The staging copy with the go word written. -/
def State.stagedGo (s : State) : State := { s with recipe := { s.recipe with staging := s.recipe.staging.set 7 1#32 } }

/-- The go word stages its value and is an arming request (R81, R82). -/
theorem State.controlBeat_go (s : State) : s.controlBeat (0x241C, fullBeat 1) = s.stagedGo.armRequest := by
  have hstage : s.stagePlan 0x241C (fullBeat 1) = s.stagedGo := by
    have h := s.stagePlan_eq 7 (fullBeat 1)
    rw [mergeBeat_full] at h
    exact h
  rw [s.controlBeat_plan (fullBeat 1) (by decide), if_pos (by decide), hstage]

theorem exec_arm {s : State} (hs : s.serves) (hocc : s.refusalOccupied = false) :
    exec (.arm (s.oneBeat 0x241C (fullBeat 1))) s =
      .next (s.stagedGo.armRequest.forward .s (.write (s.oneBeat 0x241C (fullBeat 1)))) := by
  rw [exec_oneBeat rfl hs (by decide) (by decide) (dropsBeat_plan s _ (by decide) (by decide)) (by simp [hocc]),
    takeControl_single _ _ _ (by decide), State.controlBeat_go]

/-- An arming request in a state from ARMING on leaves the staging copy pending (R85). -/
theorem State.armRequest_pend {s : State} (hl : s.stroke.state ≠ .loading) (hi : s.stroke.state ≠ .idle) :
    s.armRequest = s.pendPlan := by
  unfold State.armRequest
  split <;> simp_all

/-- RING_WAIT rose while enabled, where the lines are those of a record that entered the queue (R138, R185). -/
theorem State.rose_ringWait_iff {s u : State} {meets : Prop} [Decidable meets]
    (hu : u.lines = if meets then { s.lines with flags := s.lines.flags ||| 0x20#9 } else s.lines) :
    u.rose s.lines.flags = true ↔ meets ∧ s.flagSet .ringWait = false ∧ s.lines.enables.getLsbD 5 = true := by
  by_cases hm : meets
  · have hlines : u.lines = (s.setFlag .ringWait).lines := by
      rw [hu, if_pos hm, State.setFlag_lines]
      rfl
    have hrose : u.rose s.lines.flags = (s.setFlag .ringWait).rose s.lines.flags := by rw [State.rose, State.rose, hlines]
    rw [hrose, State.rose_setFlag_iff]
    exact ⟨fun h => ⟨hm, h⟩, fun h => h.2⟩
  · have hnone : ¬ u.rose s.lines.flags = true := by
      rw [State.rose_iff]
      rintro ⟨f, hf, hclear, -⟩
      rw [State.flagSet, hu, if_neg hm, hclear] at hf
      cases hf
    exact ⟨fun h => absurd h hnone, fun h => absurd h.1 hm⟩

/-- The refusal of a pending plan that another replaces (R85). -/
def supersededBy (old : Plan) : RefusalRecord :=
  { strokeNumber := Plan.strokeNumber old, reason := .superseded, detailKind := .none, detailIndex := 0 }

/-- The staged plan pending, the status block dirty. -/
def State.pended (s : State) : State :=
  { s with stroke := { s.stroke with pendingPlan := some s.recipe.staging }, writer := { s.writer with dirty := true } }

theorem State.pendPlan_of_none {s : State} (h : s.stroke.pendingPlan = none) : s.pendPlan = s.pended := by
  simp [State.pendPlan, h, State.pended, State.markDirty]

theorem State.pendPlan_of_some {s : State} {old : Plan} (h : s.stroke.pendingPlan = some old) :
    s.pendPlan = (s.pended.queueRefusal (supersededBy old)).notice s.lines.flags := by
  simp [State.pendPlan, h, State.pended, State.markDirty, supersededBy]

/-- The state in which a pending plan has been replaced by the staged one, its REFUSAL given to the queue (R85). -/
def State.superseded (s : State) (old : Plan) : State := s.stagedGo.pended.queueRefusal (supersededBy old)

theorem exec_arm_of_pending {s : State} {old : Plan} (hs : s.serves) (hocc : s.refusalOccupied = false)
    (hi : s.stroke.state ≠ .idle) (hp : s.stroke.pendingPlan = some old) :
    exec (.arm (s.oneBeat 0x241C (fullBeat 1))) s =
      .next (((s.superseded old).notice s.lines.flags).forward .s (.write (s.oneBeat 0x241C (fullBeat 1)))) := by
  have harm : s.stagedGo.armRequest = (s.superseded old).notice s.lines.flags :=
    (State.armRequest_pend (s := s.stagedGo) hs.2 hi).trans (State.pendPlan_of_some hp)
  rw [exec_arm hs hocc, harm]

theorem State.superseded_lines (s : State) (old : Plan) : (s.superseded old).lines =
    if s.writer.queue = [] ∧ s.ringFull = true ∧ s.writerBusy = false then
      { s.lines with flags := s.lines.flags ||| 0x20#9 } else s.lines := State.queueRefusal_lines _ _

theorem State.superseded_stroke {s : State} (old : Plan) (hocc : s.refusalOccupied = false) :
    (s.superseded old).stroke = { s.stroke with pendingPlan := some (s.recipe.staging.set 7 1#32) } := by
  have hfree : s.stagedGo.pended.refusalOccupied = false := hocc
  rw [State.superseded, State.queueRefusal_stroke, hfree]
  rfl

theorem State.superseded_refusals {s : State} (old : Plan) (ho : s.owedOk) :
    (s.superseded old).owedOk ∧ (s.superseded old).refusals = s.refusals ++ [supersededBy old] :=
  have h : s.stagedGo.pended.owedOk := ho
  ⟨State.queueRefusal_owedOk _ _ h, State.queueRefusal_refusals _ _ h⟩

@[simp] theorem State.superseded_frame (s : State) (old : Plan) :
    (s.superseded old).recipe = { s.recipe with staging := s.recipe.staging.set 7 1#32 } ∧
      (s.superseded old).checker = s.checker ∧ (s.superseded old).remap = s.remap := by
  simp [State.superseded, State.pended, State.stagedGo]

/-- A plan line whose last word is the go word: the eight words are staged, then the arming request is taken (R81, R82, R142). -/
theorem State.controlBeats_planLine (s : State) (ws : Plan) (hgo : ws[7] = 1#32) :
    s.controlBeats (beatsFrom 0x2400 (ws.toList.map fullBeat)) =
      ({ s with recipe := { s.recipe with staging := ws } }).armRequest := by
  have hws : ws = #v[ws[0], ws[1], ws[2], ws[3], ws[4], ws[5], ws[6], 1#32] := by
    ext i hi
    interval_cases i <;> simp [hgo]
  have hlist : ws.toList = [ws[0], ws[1], ws[2], ws[3], ws[4], ws[5], ws[6], 1#32] := by
    rw [hws]
    rfl
  have hplan : ∀ (u : State) (i : Fin 8) (x : Word), i ≠ 7 → u.controlBeat (0x2400 + 4 * i, fullBeat x) =
      { u with recipe := { u.recipe with staging := u.recipe.staging.set i x } } := fun u i x hi => by
    have harms : armsAt (0x2400 + 4 * i.val, fullBeat x) = false := by
      rw [← Bool.not_eq_true, armsAt_iff]
      exact fun ⟨h, _⟩ => hi (Fin.ext (by change i.val = 7; omega))
    rw [u.controlBeat_plan _ (by omega), harms, State.stagePlan_eq, mergeBeat_full]
    rfl
  have h0 := fun u x => hplan u 0 x (by decide)
  have h1 := fun u x => hplan u 1 x (by decide)
  have h2 := fun u x => hplan u 2 x (by decide)
  have h3 := fun u x => hplan u 3 x (by decide)
  have h4 := fun u x => hplan u 4 x (by decide)
  have h5 := fun u x => hplan u 5 x (by decide)
  have h6 := fun u x => hplan u 6 x (by decide)
  norm_num at h0 h1 h2 h3 h4 h5 h6
  rw [hlist]
  simp only [List.map_cons, List.map_nil, beatsFrom, State.controlBeats, h0, h1, h2, h3, h4, h5, h6]
  refine (State.controlBeat_go _).trans ?_
  refine congrArg (fun v : Plan => State.armRequest { s with recipe := { s.recipe with staging := v } }) ?_
  ext i hi
  interval_cases i <;> simp [hgo]

/-- Settles O22. -/
theorem armLatchesOrPends : Obligations.ArmLatchesOrPends := by
  refine ⟨fun s hs hocc ho => ⟨fun hi => ?_, fun hi hp => ?_, fun old hi hp => ⟨fun hn => ?_, fun hs' hn => ?_⟩⟩, fun s ws hs hi hocc hgo => ?_⟩
  · have harm : s.stagedGo.armRequest = s.stagedGo.beginArming s.stagedGo.recipe.staging := by
      rw [State.armRequest, show s.stagedGo.stroke.state = .idle from hi]
    rw [exec_arm hs hocc, harm]
    rfl
  · have harm : s.stagedGo.armRequest = s.stagedGo.pended :=
      (State.armRequest_pend (s := s.stagedGo) hs.2 hi).trans (State.pendPlan_of_none hp)
    rw [exec_arm hs hocc, harm]
    rfl
  · have hquiet : (s.superseded old).notice s.lines.flags = s.superseded old := by
      rw [State.notice, if_neg]
      rintro ⟨hr, hst⟩
      rw [State.superseded_stroke old hocc] at hst
      exact hn ⟨hst, (State.rose_ringWait_iff (s.superseded_lines old)).mp hr⟩
    refine ⟨_, (exec_arm_of_pending hs hocc hi hp).trans (by rw [hquiet]), ?_, by simp, by simp, by simp, ?_, ?_⟩
    · simpa using State.superseded_stroke old hocc
    · simpa using s.superseded_lines old
    · simpa [State.refusals, supersededBy] using (State.superseded_refusals old ho).2
  · have habandon : (s.superseded old).notice s.lines.flags =
        (s.superseded old).refuseArming ((s.superseded old).refusalOf .abandoned) := by
      rw [← State.abandonArming, State.notice, if_pos ⟨(State.rose_ringWait_iff (s.superseded_lines old)).mpr hn, by
        rw [State.superseded_stroke old hocc]; exact hs'⟩]
    obtain ⟨howed, hrefusals⟩ := State.superseded_refusals old ho
    have hnext := (s.superseded old).refuseArming_next ((s.superseded old).refusalOf .abandoned)
    have hstroke := State.superseded_stroke old hocc
    obtain ⟨hst, hlatched, hwalk⟩ := hnext.2 (s.recipe.staging.set 7 1#32) (by rw [hstroke])
    refine ⟨_, (exec_arm_of_pending hs hocc hi hp).trans (by rw [habandon]), ?_, by simpa using hst, by simpa using hlatched,
      by simpa using hwalk, ?_, by simp, by simp, by simp, ?_⟩
    · have hflag : (s.superseded old).flagSet .ringWait = true := by
        rw [State.flagSet, State.superseded_lines, if_pos hn.1]
        simp [EventFlag.bit]
      simpa [State.flagSet] using State.flagSet_refuseArming ((s.superseded old).refusalOf .abandoned) hflag
    · simpa using ((s.superseded old).refuseArming_counts ((s.superseded old).refusalOf .abandoned)).2.2.2.2.2.2
    · have h := State.refuseArming_refusals _ ((s.superseded old).refusalOf .abandoned) howed
      rw [hrefusals, List.append_assoc] at h
      simpa [State.refusals, State.refusalOf, State.strokeNumber, hstroke, supersededBy] using h
  · intro w
    have haddr : w.addr.toNat = s.regionBase + 0x2400 := oneBeat_addr s 0x2400 (fullBeat 0) (by decide)
    have hlen : w.beats.length = 8 := by simp [w]
    have hoff : w.addr.toNat - s.regionBase = 0x2400 := by rw [haddr]; omega
    have hin : s.inRegion w.addr.toNat = true := by
      rw [State.inRegion_iff, haddr]
      simp only [Config.regionBytes]
      omega
    have hwf : (Request.write w).wellFormed = true := by
      have hbase : s.regionBase % 64 = 0 := by simp only [State.regionBase, Config.regionSpacing]; omega
      rw [Request.wellFormed_iff]
      simp only [Request.addr, Request.count, haddr, hlen]
      omega
    have hdrop : s.dropDecision .s (w.addr.toNat - s.regionBase) w.beats = false := by
      rw [← Bool.not_eq_true, State.dropDecision_iff, hoff]
      rintro (h | ⟨j, b, hb, h⟩)
      · cases h
      · have hj := (List.getElem?_eq_some_iff.mp hb).1
        rw [dropsBeat_plan s b (by omega) (by omega)] at h
        cases h
    rw [exec_controlWrite (c := .arm w) rfl hs.1 hwf hin hs.2, controlWrite_taken hdrop (by simp [hocc]), hoff, State.takeControl,
      if_neg (by decide), s.controlBeats_planLine ws hgo, State.armRequest,
      show ({ s with recipe := { s.recipe with staging := ws } } : State).stroke.state = .idle from hi]
    rfl

end Sys2Proof.Machine

/-! PROOFS. The mark of a changed status block: no operation of the stroke controller, the walker or the report queue takes it back. -/

namespace Sys2Proof.Machine

/-- The status block stays marked dirty (R187). -/
def State.KeepsDirty (s t : State) : Prop := s.writer.dirty = true → t.writer.dirty = true

theorem State.KeepsDirty.refl (s : State) : s.KeepsDirty s := id

theorem State.KeepsDirty.trans {s t u : State} (a : s.KeepsDirty t) (b : t.KeepsDirty u) : s.KeepsDirty u := fun h => b (a h)

theorem State.KeepsDirty.of_eq {s t : State} (h : t.writer.dirty = s.writer.dirty) : s.KeepsDirty t := fun hs => h.trans hs

theorem State.keepsDirty_setFlag (s : State) (f : EventFlag) : s.KeepsDirty (s.setFlag f) := fun h => by simp [h]

theorem State.keepsDirty_takeUpHead (s : State) : s.KeepsDirty s.takeUpHead := by
  unfold State.takeUpHead
  split
  · exact fun h => State.keepsDirty_setFlag _ _ h
  · exact .refl s

theorem State.keepsDirty_enqueue (s : State) (r : Record) : s.KeepsDirty (s.enqueue r) := by
  unfold State.enqueue
  dsimp only
  split
  · exact fun h => State.keepsDirty_takeUpHead _ h
  · exact id

theorem State.keepsDirty_queueRefusal (s : State) (r : RefusalRecord) : s.KeepsDirty (s.queueRefusal r) := by
  unfold State.queueRefusal
  split
  · exact id
  · exact s.keepsDirty_enqueue _

theorem State.keepsDirty_handOffOwed (s : State) : s.KeepsDirty s.handOffOwed := by
  unfold State.handOffOwed
  split
  · exact id
  · split
    · exact id
    · exact fun h => State.keepsDirty_enqueue _ _ h

theorem State.keepsDirty_enter (s : State) (st : StrokeState) : s.KeepsDirty (s.enter st) := fun h => by simp [h]

theorem State.keepsDirty_enterIdle (s : State) : s.KeepsDirty s.enterIdle := by
  unfold State.enterIdle
  split
  · exact s.keepsDirty_enter _
  · exact fun _ => rfl

theorem State.keepsDirty_refuseArming (s : State) (r : RefusalRecord) : s.KeepsDirty (s.refuseArming r) :=
  (s.keepsDirty_queueRefusal r).trans (State.keepsDirty_enterIdle _)

theorem State.keepsDirty_notice (s : State) (b : BitVec 9) : s.KeepsDirty (s.notice b) := by
  unfold State.notice
  split
  · exact s.keepsDirty_refuseArming _
  · exact id

theorem State.keepsDirty_raise (s : State) (f : EventFlag) : s.KeepsDirty (s.raise f) :=
  (s.keepsDirty_setFlag f).trans (State.keepsDirty_notice _ _)

theorem State.keepsDirty_refuseWrite (s : State) (f : EventFlag) (a : Word) : s.KeepsDirty (s.refuseWrite f a) := by
  refine State.KeepsDirty.trans (fun h => ?_) (State.keepsDirty_raise _ f)
  simp [State.captureRefused_eq, h]

theorem State.keepsDirty_dropWaiting (s : State) (p : PortId) : s.KeepsDirty (s.dropWaiting p) := by
  unfold State.dropWaiting
  split
  · exact State.KeepsDirty.trans (.of_eq (by simp)) (State.keepsDirty_refuseWrite _ _ _)
  all_goals exact id

theorem State.keepsDirty_queueStrokeVerdict (s : State) (o : StrokeOutcome) : s.KeepsDirty (s.queueStrokeVerdict o) :=
  State.KeepsDirty.trans (fun h => State.keepsDirty_enqueue s.stopWalker (.stroke (s.composeStroke o)) h) (State.keepsDirty_enter _ _)

theorem State.keepsDirty_queueEmptySlots (s : State) (ns : List Nat) : s.KeepsDirty (s.queueEmptySlots ns) := by
  induction ns generalizing s with
  | nil => exact id
  | cons n ns ih =>
    rw [State.queueEmptySlots]
    refine State.KeepsDirty.trans ?_ (ih _)
    split
    · exact s.keepsDirty_enqueue _
    · exact id

theorem State.keepsDirty_startWalk (s : State) (o : StrokeOutcome) : s.KeepsDirty (s.startWalk o) := by
  unfold State.startWalk
  split
  · exact fun h => State.keepsDirty_enter _ _ h
  · exact s.keepsDirty_queueStrokeVerdict o

theorem State.keepsDirty_endStroke (s : State) (o : StrokeOutcome) : s.KeepsDirty (s.endStroke o) := by
  have hdrop : ∀ u : State, s.KeepsDirty u → s.KeepsDirty ((u.dropWaiting .a).dropWaiting .s) := fun u hu =>
    (hu.trans (State.keepsDirty_dropWaiting _ _)).trans (State.keepsDirty_dropWaiting _ _)
  refine hdrop _ ?_
  split
  · exact State.keepsDirty_queueStrokeVerdict (s.setOutcome o) o
  · split
    · exact (State.keepsDirty_queueEmptySlots (s.setOutcome o) _).trans (State.keepsDirty_queueStrokeVerdict _ o)
    · exact State.keepsDirty_startWalk (s.setOutcome o) o

theorem State.keepsDirty_hardChange (s : State) : s.KeepsDirty s.hardChange := by
  unfold State.hardChange
  split
  case h_3 => exact s.keepsDirty_refuseArming _
  case h_4 | h_5 => exact s.keepsDirty_endStroke _
  case h_6 => exact State.keepsDirty_queueStrokeVerdict (s.setOutcome _) _
  all_goals exact id

theorem State.keepsDirty_nextSlot (s : State) : s.KeepsDirty s.nextSlot := by
  unfold State.nextSlot
  split
  · exact id
  · split
    · exact s.keepsDirty_queueStrokeVerdict _
    · exact id

theorem State.keepsDirty_queueSlot (s : State) : s.KeepsDirty s.queueSlot := by
  refine State.KeepsDirty.trans (State.KeepsDirty.trans (.of_eq (by simp)) (State.keepsDirty_enqueue _ _)) (State.keepsDirty_nextSlot _)

theorem State.keepsDirty_queuePin (s : State) (c : Nat) : s.KeepsDirty (s.queuePin c) :=
  fun h => s.keepsDirty_enqueue (.pin (s.composePin s.walker.cursorSlot c)) h

theorem State.keepsDirty_resumeWalk (s : State) : s.KeepsDirty s.resumeWalk := by
  unfold State.resumeWalk
  split
  · split
    · split
      · exact s.keepsDirty_queuePin _
      · split <;> exact id
    · split
      · exact s.keepsDirty_queueSlot
      · exact id
    · exact id
  · exact id

theorem State.keepsDirty_refillEntries (s : State) : s.KeepsDirty s.refillEntries :=
  (s.keepsDirty_resumeWalk.trans (State.keepsDirty_handOffOwed _)).trans (State.keepsDirty_takeUpHead _)

theorem State.keepsDirty_completionFlags (s : State) (r : Record) (okay : Bool) : s.KeepsDirty (s.completionFlags r okay) := by
  intro h
  unfold State.completionFlags
  dsimp only
  repeat' split
  all_goals simp [h]

end Sys2Proof.Machine

/-! PROOFS. Writes to the recipe area: the shadow, its sum, the ring, and the hard-change notice. -/

namespace Sys2Proof.Machine

/-! ## A taken recipe write -/

/-- A thawed recipe write at a serving port S is taken and forwarded (R142, R163). -/
theorem exec_recipeWrite {w : Write} {s : State} (hs : s.serves) (hw : (Request.write w).wellFormed = true)
    (hr : s.inRegion w.addr.toNat = true) (hoff : w.addr.toNat - s.regionBase < 0x2400)
    (ht : s.thawedAt (w.addr.toNat - s.regionBase)) :
    exec (.recipeWrite w) s = .next ((s.writeRecipe (w.addr.toNat - s.regionBase) w.beats).forward .s (.write w)) := by
  obtain ⟨-, hin, hl, hne⟩ := recipeWrite_within hw hr hoff
  have hdrop : s.dropDecision .s (w.addr.toNat - s.regionBase) w.beats = false := by
    rw [dropDecision_recipe s hoff hl hne]
    exact (frozenAt_eq_false hoff).mpr ht
  rw [exec_controlWrite (c := .recipeWrite w) rfl hs.1 hw hr hs.2, controlWrite_taken hdrop, State.takeControl,
    if_pos (show _ < Config.recipeBytes from hoff)]
  rw [← Bool.not_eq_true, Bool.and_eq_true, any_armsAt_iff]
  rintro ⟨⟨j, b, hb, h, -⟩, -⟩
  have hj := (List.getElem?_eq_some_iff.mp hb).1
  simp only [Config.recipeBytes] at hin
  omega

/-- Settles O26. -/
theorem recipeWriteUpdatesShadow : Obligations.RecipeWriteUpdatesShadow := by
  intro w s hs hw hr hoff ht hwf
  have hrecipe := s.writeRecipe_recipe (w.addr.toNat - s.regionBase) w.beats
  refine ⟨_, exec_recipeWrite hs hw hr hoff ht, by simp [State.forward], fun i => ?_, fun hsum => ?_, ?_, by simp, by simp, by simp⟩
  · simp only [State.forward_frame, hrecipe]
    exact readByte_applyBeats _ _ _ i hwf
  · obtain ⟨h4, hin, -⟩ := recipeWrite_within hw hr hoff
    simp only [State.forward_frame, hrecipe, hsum]
    exact sumBeats_eq _ _ _ hin h4
  · simp [hrecipe]

/-! ## The words a write touches -/

theorem hardWrite_iff (m : Memory) (off : Nat) (bs : List Beat) : hardWrite m off bs = true ↔
    ∃ j < bs.length, hardDiffers m (applyBeats m off bs) (off + 4 * j) = true := by
  rw [hardWrite, any_beatsFrom_iff]
  constructor
  · rintro ⟨j, b, hb, h⟩
    exact ⟨j, (List.getElem?_eq_some_iff.mp hb).1, h⟩
  · rintro ⟨j, hj, h⟩
    exact ⟨j, bs[j], List.getElem?_eq_getElem hj, h⟩

/-- A word that no beat covers reads as it did. -/
theorem readWord_applyBeats_ne (m : Memory) {off a : Nat} (bs : List Beat) (h : a + 4 ≤ off ∨ off + 4 * bs.length ≤ a) :
    (applyBeats m off bs).readWord a = m.readWord a := by
  induction bs generalizing m off with
  | nil => rfl
  | cons b bs ih =>
    simp only [List.length_cons] at h
    rw [applyBeats, ih _ (by omega), Memory.readWord_writeBeat_ne m off b a (by omega)]

/-- Every bit of the eight geometry words is hard (R155). -/
theorem hardDiffers_geometry {old new : Memory} {off : Nat} (h : off < 0x20) :
    hardDiffers old new off = true ↔ old.readWord off ≠ new.readWord off := by
  have hmask : hardMask off = BitVec.allOnes 32 := by
    rw [hardMask, if_pos h]
    rfl
  rw [hardDiffers, hmask, BitVec.and_allOnes, bne_iff_ne, ne_eq, BitVec.xor_eq_zero_iff]

theorem ringMoved_iff (old new : Memory) : ringMoved old new = true ↔
    new.readWord 0xC ≠ old.readWord 0xC ∨ new.readWord 0x10 ≠ old.readWord 0x10 := by
  rw [ringMoved, Bool.or_eq_true, bne_iff_ne, bne_iff_ne, ne_comm, ne_comm (a := old.readWord 0x10)]

/-- A write that moves the ring changes a hard bit (R155, R184). -/
theorem hardWrite_of_ringMoved {m : Memory} {off : Nat} {bs : List Beat} (h4 : off % 4 = 0)
    (h : ringMoved m (applyBeats m off bs) = true) : hardWrite m off bs = true := by
  have key : ∀ a, a < 0x20 → a % 4 = 0 → (applyBeats m off bs).readWord a ≠ m.readWord a → hardWrite m off bs = true := by
    intro a ha ha4 hne
    have hcover : off ≤ a ∧ a < off + 4 * bs.length := by
      by_contra hout
      exact hne (readWord_applyBeats_ne m bs (by omega))
    refine (hardWrite_iff m off bs).mpr ⟨(a - off) / 4, by omega, ?_⟩
    rw [show off + 4 * ((a - off) / 4) = a by omega, hardDiffers_geometry ha]
    exact hne.symm
  obtain hne | hne := (ringMoved_iff _ _).mp h
  · exact key _ (by decide) rfl hne
  · exact key _ (by decide) rfl hne

/-! ## What a stored recipe write leaves -/

/-- A write that does not move the ring changes the recipe and the mark of a changed sum alone (R153, R154). -/
theorem State.recipeStored_of_still {s : State} {off : Nat} {bs : List Beat}
    (h : ringMoved s.recipe.shadow (applyBeats s.recipe.shadow off bs) = false) : s.recipeStored off bs = { s with
      recipe := (s.recipeStored off bs).recipe, writer := { s.writer with dirty := (s.recipeStored off bs).writer.dirty } } := by
  simp [State.recipeStored, h, State.dirtyIf_eq]

/-- A write that moves the ring empties it (R184). -/
theorem State.recipeStored_of_moved {s : State} {off : Nat} {bs : List Beat}
    (h : ringMoved s.recipe.shadow (applyBeats s.recipe.shadow off bs) = true) :
    (s.recipeStored off bs).writer = { s.writer with producer := 0, consumer := 0, lap := false, dirty := true } ∧
      (s.recipeStored off bs).arbiter = { s.arbiter with inflight := s.arbiter.inflight.map fun (x : Transaction) =>
        { x with advances := false } } := by
  simp [State.recipeStored, h, State.resetRing, State.markDirty]

theorem State.recipeStored_queue (s : State) (off : Nat) (bs : List Beat) :
    (s.recipeStored off bs).writer.queue = s.writer.queue := by
  cases h : ringMoved s.recipe.shadow (applyBeats s.recipe.shadow off bs) with
  | true => rw [(State.recipeStored_of_moved h).1]
  | false => rw [State.recipeStored_of_still h]

/-! ## A stroke ended by a hard change -/

theorem State.endStroke_recipeChanged (s : State) : s.endStroke .recipeChanged =
    ((((s.setOutcome .recipeChanged).queueStrokeVerdict .recipeChanged).dropWaiting .a).dropWaiting .s) := rfl

/-- A hard change in ARMED, ACQUIRING or CLOSING goes to REPORTING without a walk (R101, R102, R103). -/
theorem State.hardChange_reports {s : State}
    (h : s.stroke.state = .armed ∨ s.stroke.state = .acquiring ∨ s.stroke.state = .closing) :
    s.hardChange.stroke = { s.stroke with
      state := .reporting, outcome := some .recipeChanged, armTimer := none, stallTimer := none } ∧
      s.hardChange.walker.state = .stopped ∧ s.hardChange.records = s.records ++ [.stroke (s.composeStroke .recipeChanged)] := by
  let v := (s.setOutcome .recipeChanged).queueStrokeVerdict .recipeChanged
  have hv : v.stroke = { s.stroke with
      state := .reporting, outcome := some .recipeChanged, armTimer := none, stallTimer := none } := by
    simp [v, State.queueStrokeVerdict_stroke]
  have hrec : v.records = s.records ++ [.stroke (s.composeStroke .recipeChanged)] :=
    State.records_of_queue (State.queueStrokeVerdict_queue _ _)
  have hwalk : v.walker.state = .stopped := by simp [v, State.queueStrokeVerdict_walker]
  obtain ⟨hst, hq⟩ := State.dropWaiting_both_keeps (s := v) (by simp [hv])
  have hend : s.endStroke .recipeChanged = (v.dropWaiting .a).dropWaiting .s := rfl
  have hdropped : (s.endStroke .recipeChanged).stroke = v.stroke ∧ (s.endStroke .recipeChanged).walker.state = .stopped ∧
      (s.endStroke .recipeChanged).records = v.records := by
    rw [hend]
    exact ⟨hst, by simpa using hwalk, by rw [State.records, hq]; rfl⟩
  rw [← hv, ← hrec]
  obtain h | h | h := h
  · have he : s.hardChange = s.endStroke .recipeChanged := by rw [State.hardChange, h]
    rw [he]
    exact hdropped
  · have he : s.hardChange = s.endStroke .recipeChanged := by rw [State.hardChange, h]
    rw [he]
    exact hdropped
  · have he : s.hardChange = v := by rw [State.hardChange, h]; rfl
    rw [he]
    exact ⟨rfl, hwalk, rfl⟩

/-- A port S that was FREE and forwards a request afterwards had no write that waited for room. -/
theorem State.roomWaitDropped_forward {s t : State} (r : Request) (hs : s.portS.status = .free) (h : s.roomWaitDropped t) :
    s.roomWaitDropped (t.forward .s r) := by
  intro p w hw
  cases p with
  | s => exact absurd hw (by simp [hs])
  | a => exact h .a w hw

/-! ## The hard bits -/

/-- The hard bits of a recipe word, word by word (R155). -/
def HardBit (off i : Nat) : Prop :=
  off < 0x20 ∨
  (∃ n < 4, off = 0x40 + 0x10 * n ∧ (i ≤ 9 ∨ 16 ≤ i ∧ i ≤ 25)) ∨
  (∃ n < 32, off = 0x100 + 0x90 * n ∧ i ≤ 7) ∨
  (∃ n < 32, ∃ z < 8, off = 0x110 + 0x90 * n + 0x10 * z ∧ i ≤ 1) ∨
  (∃ n < 32, ∃ z < 8, off = 0x114 + 0x90 * n + 0x10 * z) ∨
  (∃ c < 1024, off = 0x1400 + 4 * c ∧ (16 ≤ i ∧ i ≤ 20 ∨ i = 24))

/-- The four masks of hard bits that are neither empty nor full, bit by bit. -/
theorem hardMasks_bits : ∀ i : Fin 32,
    ((0x03FF03FF#32).getLsbD i = true ↔ i.val ≤ 9 ∨ 16 ≤ i.val ∧ i.val ≤ 25) ∧ ((0x000000FF#32).getLsbD i = true ↔ i.val ≤ 7) ∧
      ((0x00000003#32).getLsbD i = true ↔ i.val ≤ 1) ∧
      ((0x011F0000#32).getLsbD i = true ↔ 16 ≤ i.val ∧ i.val ≤ 20 ∨ i.val = 24) ∧ (0xFFFFFFFF#32).getLsbD i = true := by
  decide

/-- Where the hard bits lie, by the offset's remainders. -/
theorem hardBit_iff {off i : Nat} (h4 : off % 4 = 0) : HardBit off i ↔
    off < 0x20 ∨ (0x40 ≤ off ∧ off < 0x80 ∧ (off - 0x40) % 0x10 = 0 ∧ (i ≤ 9 ∨ 16 ≤ i ∧ i ≤ 25)) ∨
      (0x100 ≤ off ∧ off < 0x1300 ∧ (((off - 0x100) % 0x90 = 0 ∧ i ≤ 7) ∨
        (0x10 ≤ (off - 0x100) % 0x90 ∧ (off - 0x100) % 0x90 % 0x10 = 0 ∧ i ≤ 1) ∨
        (0x10 ≤ (off - 0x100) % 0x90 ∧ (off - 0x100) % 0x90 % 0x10 = 4))) ∨
      (0x1400 ≤ off ∧ off < 0x2400 ∧ (16 ≤ i ∧ i ≤ 20 ∨ i = 24)) := by
  constructor
  · rintro (h | ⟨n, hn, he, h⟩ | ⟨n, hn, he, h⟩ | ⟨n, hn, z, hz, he, h⟩ | ⟨n, hn, z, hz, he⟩ | ⟨c, hc, he, h⟩) <;> omega
  · let n := (off - 0x100) / 0x90
    let z := ((off - 0x100) % 0x90 - 0x10) / 0x10
    rintro (h | ⟨hlo, hhi, hm, h⟩ | ⟨hlo, hhi, ⟨hm, h⟩ | ⟨hr, hm, h⟩ | ⟨hr, hm⟩⟩ | ⟨hlo, hhi, h⟩)
    · exact .inl h
    · exact .inr (.inl ⟨(off - 0x40) / 0x10, by omega, by omega, h⟩)
    · exact .inr (.inr (.inl ⟨n, by omega, by omega, h⟩))
    · exact .inr (.inr (.inr (.inl ⟨n, by omega, z, by omega, by omega, h⟩)))
    · exact .inr (.inr (.inr (.inr (.inl ⟨n, by omega, z, by omega, by omega⟩))))
    · exact .inr (.inr (.inr (.inr (.inr ⟨(off - 0x1400) / 4, by omega, by omega, h⟩))))

theorem hardMask_iff {off i : Nat} (h4 : off % 4 = 0) (hi : i < 32) : (hardMask off).getLsbD i = true ↔ HardBit off i := by
  obtain ⟨hslot, hcount, hzone, hpin, hall⟩ := hardMasks_bits ⟨i, hi⟩
  have hnone : (0#32).getLsbD i = true ↔ False := by simp
  rw [hardBit_iff h4]
  unfold hardMask
  dsimp only at *
  repeat' split
  all_goals simp only [hslot, hcount, hzone, hpin, hall, hnone, true_iff, false_iff]
  all_goals omega

theorem hardDiffers_iff (old new : Memory) (off : Nat) : hardDiffers old new off = true ↔
    ∃ i < 32, (hardMask off).getLsbD i = true ∧ (old.readWord off).getLsbD i ≠ (new.readWord off).getLsbD i := by
  rw [hardDiffers, bne_iff_ne]
  constructor
  · intro h
    by_contra hn
    refine h (BitVec.eq_of_getLsbD_eq fun i hi => ?_)
    by_contra hb
    refine hn ⟨i, hi, ?_⟩
    simpa [Bool.and_eq_true, and_comm] using hb
  · rintro ⟨i, hi, hm, hb⟩ h
    have := congrArg (BitVec.getLsbD · i) h
    simp [hm] at this
    exact hb this

/-- Settles O27. -/
theorem recipeWriteAndTheStroke : Obligations.RecipeWriteAndTheStroke := by
  refine ⟨fun w s hs hw hr hoff ht hsoft => ?_, fun w s hs hw hr hoff ht hhard => ?_, fun old new off h4 => ?_,
    fun w s hs hw hr hoff ht => ?_⟩
  · have hsoft' : hardWrite s.recipe.shadow (w.addr.toNat - s.regionBase) w.beats = false := by
      rw [← Bool.not_eq_true, hardWrite_iff]
      rintro ⟨j, hj, h⟩
      rw [hsoft j hj] at h
      cases h
    have hstill : ringMoved s.recipe.shadow (applyBeats s.recipe.shadow (w.addr.toNat - s.regionBase) w.beats) = false := by
      rw [← Bool.not_eq_true]
      intro h
      rw [hardWrite_of_ringMoved (recipeWrite_within hw hr hoff).1 h] at hsoft'
      cases hsoft'
    refine ⟨_, exec_recipeWrite hs hw hr hoff ht, ?_⟩
    rw [State.writeRecipe_eq, hsoft', if_neg Bool.false_ne_true]
    simpa using congrArg (State.forward · .s (.write w)) (State.recipeStored_of_still hstill)
  · let u := s.recipeStored (w.addr.toNat - s.regionBase) w.beats
    have hwrite : s.writeRecipe (w.addr.toNat - s.regionBase) w.beats = u.hardChange := by
      rw [State.writeRecipe_eq, if_pos ((hardWrite_iff _ _ _).mpr hhard)]
    have hstroke : u.stroke = s.stroke := by simp [u]
    have hqueue : u.writer.queue = s.writer.queue := s.recipeStored_queue _ _
    refine ⟨_, (exec_recipeWrite hs hw hr hoff ht).trans (by rw [hwrite]), fun hst => ?_, fun hst ho => ?_, fun hst => ?_, fun hst => ?_⟩
    · have hkeep : u.hardChange = u := by
        obtain h | h := hst <;> rw [State.hardChange, hstroke, h]
      rw [hkeep]
      exact ⟨by simp [hstroke], by simp [hqueue]⟩
    · have habandon : u.hardChange = u.abandonArming := by rw [State.hardChange, hstroke, hst]
      rw [habandon]
      exact State.abandonedTo_of ho hstroke hqueue (by simp) (by simp) (by simp [u]) (by simp [u])
    · obtain ⟨h1, h2, h3⟩ := State.hardChange_reports (s := u) (by rwa [hstroke])
      have hverdict : u.composeStroke .recipeChanged = s.composeStroke .recipeChanged := by
        simp [State.composeStroke, State.strokeNumber, u]
      have hrec : u.records = s.records := by rw [State.records, hqueue]; rfl
      refine ⟨by simp [h1], by simp [h1], by simp [h1], by simp [h1], by simp [h2], by simp [u], ?_⟩
      rw [hverdict, hrec] at h3
      simpa [State.records] using h3
    · have hend : u.hardChange = u.endStroke .recipeChanged := by
        obtain h | h := hst <;> rw [State.hardChange, hstroke, h]
      rw [hend]
      refine State.roomWaitDropped_forward _ hs.1.1 (State.roomWaitDropped_of (u := u) ?_ ?_ ?_ ?_ (u.endStroke_roomWaitDropped _))
      · simp [u]
      · simp [u]
      · simp [State.flagSet, u]
      · simp [State.flagSet, u]
  · intro hard
    rw [hardDiffers_iff]
    exact exists_congr fun i => and_congr_right fun hi => and_congr_left fun _ => hardMask_iff h4 hi
  · refine ⟨_, exec_recipeWrite hs hw hr hoff ht, ?_⟩
    let off := w.addr.toNat - s.regionBase
    have hrecipe : (s.writeRecipe off w.beats).recipe.shadow = applyBeats s.recipe.shadow off w.beats := by
      rw [s.writeRecipe_recipe off w.beats]
    have hmoved := ringMoved_iff s.recipe.shadow (applyBeats s.recipe.shadow off w.beats)
    rw [← hrecipe] at hmoved
    refine ⟨fun hm => ?_, fun hm => ?_⟩
    · have hring : ringMoved s.recipe.shadow (applyBeats s.recipe.shadow off w.beats) = true := by
        rw [← hrecipe]
        exact hmoved.mpr (by simpa using hm)
      obtain ⟨hwriter, harb⟩ := State.recipeStored_of_moved hring
      have hdirty : (s.recipeStored off w.beats).hardChange.writer.dirty = true :=
        State.keepsDirty_hardChange _ (by rw [hwriter])
      have hwrite : s.writeRecipe off w.beats = (s.recipeStored off w.beats).hardChange := by
        rw [State.writeRecipe_eq, if_pos (hardWrite_of_ringMoved (recipeWrite_within hw hr hoff).1 hring)]
      simp only [State.forward_frame, off] at *
      rw [hwrite]
      simp [hwriter, harb, hdirty]
    · have hring : ringMoved s.recipe.shadow (applyBeats s.recipe.shadow off w.beats) = false := by
        rw [← Bool.not_eq_true, ← hrecipe]
        exact fun h => hm (by simpa using hmoved.mp h)
      have hstored := State.recipeStored_of_still hring
      have hkeep : ∀ t : State, (t = s.recipeStored off w.beats ∨ t = (s.recipeStored off w.beats).hardChange) →
          t.writer.producer = s.writer.producer ∧ t.writer.consumer = s.writer.consumer ∧ t.writer.lap = s.writer.lap ∧
            t.arbiter = s.arbiter := by
        rintro t (rfl | rfl) <;> rw [hstored] <;> simp
      have hwrite : s.writeRecipe off w.beats = s.recipeStored off w.beats ∨
          s.writeRecipe off w.beats = (s.recipeStored off w.beats).hardChange := by
        rw [State.writeRecipe_eq]
        split <;> simp
      simpa using hkeep _ hwrite

end Sys2Proof.Machine

/-! PROOFS. ABORT, by the state of the stroke. -/

namespace Sys2Proof.Machine

/-! ## A pending plan discarded -/

/-- The REFUSAL of a plan that is given up before its arming (R99). -/
def abandonedPlan (p : Plan) : RefusalRecord :=
  { strokeNumber := Plan.strokeNumber p, reason := .abandoned, detailKind := .none, detailIndex := 0 }

/-- The state with no plan pending, the status block dirty. -/
def State.unpended (s : State) : State :=
  { s with stroke := { s.stroke with pendingPlan := none }, writer := { s.writer with dirty := true } }

theorem State.discardPending_of_none {s : State} (h : s.stroke.pendingPlan = none) : s.discardPending = s := by
  simp [State.discardPending, h]

theorem State.discardPending_of_some {s : State} {p : Plan} (h : s.stroke.pendingPlan = some p) :
    s.discardPending = s.unpended.queueRefusal (abandonedPlan p) := by
  simp [State.discardPending, h, State.unpended, State.markDirty, abandonedPlan]

/-- The stroke controller after a pending plan is discarded. -/
theorem State.discardPending_stroke (s : State) :
    s.discardPending.stroke = { s.stroke with pendingPlan := none, owed := s.discardPending.stroke.owed } := by
  cases hp : s.stroke.pendingPlan with
  | none =>
    rw [State.discardPending_of_none hp, ← hp]
  | some p =>
    rw [State.discardPending_of_some hp, State.queueRefusal_stroke]
    rfl

theorem State.discardPending_refusals {s : State} (ho : s.owedOk) :
    s.discardPending.refusals = s.refusals ++ (s.stroke.pendingPlan.map abandonedPlan).toList := by
  cases hp : s.stroke.pendingPlan with
  | none => simp [State.discardPending_of_none hp]
  | some p =>
    have hu : s.unpended.owedOk := ho
    rw [State.discardPending_of_some hp, State.queueRefusal_refusals _ _ hu]
    rfl

/-- What a discarded plan leaves of the lines: RING_WAIT may be set, nothing else changes. -/
theorem State.discardPending_lines (s : State) :
    s.discardPending.lines = s.lines ∨ s.discardPending.lines = { s.lines with flags := s.lines.flags ||| 0x20#9 } := by
  cases hp : s.stroke.pendingPlan with
  | none => exact .inl (by rw [State.discardPending_of_none hp])
  | some p =>
    rw [State.discardPending_of_some hp, State.queueRefusal_lines]
    split
    · exact .inr rfl
    · exact .inl rfl

/-- The drop of the waits for room, seen after later steps that leave the ports and keep STRAY and the captured address. -/
theorem State.roomWaitDropped.andThen {s t u : State} (h : s.roomWaitDropped t) (hp : ∀ p, u.port p = t.port p)
    (hl : u.lines = t.lines ∨ u.lines = { t.lines with flags := t.lines.flags ||| 0x20#9 }) : s.roomWaitDropped u := by
  have hstray : t.flagSet .stray = true → u.flagSet .stray = true := fun h => by
    unfold State.flagSet at h ⊢
    obtain e | e := hl <;> rw [e] <;> simp [h]
  have hfirst : u.lines.firstRefused = t.lines.firstRefused := by
    obtain e | e := hl <;> rw [e]
  intro p w hw
  obtain ⟨h1, h2, h3, h4⟩ := h p w hw
  rw [hp, hfirst]
  exact ⟨h1, h2, hstray h3, h4⟩

/-! ## Refusals through the end of a stroke -/

theorem State.refusals_eq (s : State) : s.refusals = s.records.filterMap Record.refusal? ++ s.stroke.owed := by
  rw [State.refusals, State.records, List.filterMap_map]
  rfl

/-- Records that are no REFUSAL change no refusal held. -/
theorem State.refusals_of_records {s t : State} {rs : List Record} (hr : t.records = s.records ++ rs)
    (hrs : rs.filterMap Record.refusal? = []) (ho : t.stroke.owed = s.stroke.owed) : t.refusals = s.refusals := by
  rw [State.refusals_eq, State.refusals_eq, hr, List.filterMap_append, hrs, List.append_nil, ho]

/-- The records a stroke that ends queues (R102, R120). -/
theorem State.endStroke_records {s : State} {o : StrokeOutcome} (ho : o ≠ .recipeChanged) :
    ∃ (vs : List SlotVerdict) (rs : List StrokeVerdict), (s.endStroke o).records = s.records ++ (vs.map .slot ++ rs.map .stroke) := by
  by_cases h0 : s.stroke.samplesTaken = 0
  · obtain ⟨-, -, hr⟩ := State.endStroke_endedEmpty ho h0
    refine ⟨([0, 1, 2, 3].filter fun n => Plan.active s.stroke.latched n).map s.composeEmptySlot, [s.composeStroke o], ?_⟩
    rw [hr, List.append_assoc, List.map_map]
    rfl
  · cases hf : activeFrom s.stroke.latched 0 with
    | some n =>
      have hn : n < 4 ∧ Plan.active s.stroke.latched n = true := by
        have hmem := List.mem_of_find?_eq_some hf
        have hact := List.find?_some hf
        simp only [Nat.zero_le, decide_true, Bool.true_and] at hact
        exact ⟨by simp at hmem; omega, hact⟩
      have hq := (State.endStroke_walkBegun ho h0).2 ⟨n, hn⟩
      exact ⟨[], [], by simp [State.records, hq]⟩
    | none =>
      have he : s.endStroke o = (((s.setOutcome o).queueStrokeVerdict o).dropWaiting .a).dropWaiting .s := by
        simp [State.endStroke, ho, h0, State.startWalk, hf]
      obtain ⟨-, hq⟩ := State.dropWaiting_both_keeps (s := (s.setOutcome o).queueStrokeVerdict o)
        (by simp [State.queueStrokeVerdict_stroke])
      refine ⟨[], [(s.setOutcome o).composeStroke o], ?_⟩
      rw [he, State.records, hq, State.queueStrokeVerdict_queue]
      simp [State.records]

theorem State.endStroke_refusals {s : State} {o : StrokeOutcome} (ho : o ≠ .recipeChanged) :
    (s.endStroke o).refusals = s.refusals ∧ (s.owedOk → (s.endStroke o).owedOk) := by
  obtain ⟨vs, rs, hr⟩ := State.endStroke_records (s := s) ho
  obtain ⟨st, -, hst⟩ := s.endStroke_stroke o
  have howed : (s.endStroke o).stroke.owed = s.stroke.owed := by rw [hst]
  refine ⟨State.refusals_of_records hr ?_ howed, fun h hne => ?_⟩
  · simp [List.filterMap_map, Record.refusal?, Function.comp_def]
  · rw [howed] at hne
    have hocc := s.refusalOccupied_iff.mp (h hne)
    rw [State.refusalOccupied_iff, hr, List.filter_append]
    exact List.append_ne_nil_of_left_ne_nil hocc _

theorem State.cutClosing_records (s : State) (o : StrokeOutcome) :
    (s.cutClosing o).records = s.records ++ [.stroke (s.composeStroke o)] :=
  State.records_of_queue (State.queueStrokeVerdict_queue (s.setOutcome o) o)

theorem State.cutClosing_stroke (s : State) (o : StrokeOutcome) : (s.cutClosing o).stroke = { s.stroke with
    outcome := some o, armTimer := none, stallTimer := none, state := .reporting } :=
  State.queueStrokeVerdict_stroke (s.setOutcome o) o

theorem State.cutClosing_refusals (s : State) (o : StrokeOutcome) :
    (s.cutClosing o).refusals = s.refusals ∧ (s.owedOk → (s.cutClosing o).owedOk) := by
  have howed : (s.cutClosing o).stroke.owed = s.stroke.owed := by rw [State.cutClosing_stroke]
  refine ⟨State.refusals_of_records (s.cutClosing_records o) rfl howed, fun h hne => ?_⟩
  rw [howed] at hne
  rw [State.refusalOccupied_iff, State.cutClosing_records, List.filter_append]
  exact List.append_ne_nil_of_left_ne_nil (s.refusalOccupied_iff.mp (h hne)) _

/-! ## Pin records given up -/

/-- The first record of the queue is a PIN_RECORD that has not been issued. -/
def State.headDiscardable (s : State) : Bool := (s.writer.queue.head?.map ReportEntry.discardable).getD false

/-- The queue without the pin records not issued, these counted as omitted (R126). -/
def State.pinsGone (s : State) : State := { s with
  writer := { s.writer with
    queue := s.writer.queue.filter fun e => !e.discardable
    waitMarked := if s.headDiscardable then false else s.writer.waitMarked }
  walker := { s.walker with
    omitted := s.walker.omitted + (s.writer.queue.length - (s.writer.queue.filter fun e => !e.discardable).length) } }

theorem State.discardPins_eq (s : State) : s.discardPins = if s.headDiscardable then s.pinsGone.takeUpHead else s.pinsGone := by
  unfold State.discardPins State.pinsGone State.headDiscardable
  cases s.writer.queue <;> rfl

theorem State.discardPins_queue (s : State) : s.discardPins.writer.queue = s.writer.queue.filter fun e => !e.discardable := by
  rw [State.discardPins_eq]
  split
  · exact State.takeUpHead_queue _
  · rfl

theorem State.discardPins_refusals (s : State) :
    s.discardPins.refusals = s.refusals ∧ (s.owedOk → s.discardPins.owedOk) := by
  have howed : s.discardPins.stroke = s.stroke := by simp
  have hrefusal : ∀ e : ReportEntry, e.discardable = true → Record.refusal? e.record = none := fun e he => by
    cases hr : e.record <;> simp_all [ReportEntry.discardable, Record.isPin, Record.refusal?]
  have hfilter : ∀ q : List ReportEntry, (q.filter fun e => !e.discardable).filterMap (fun e => Record.refusal? e.record) =
      q.filterMap fun e => Record.refusal? e.record := fun q => by
    induction q with
    | nil => rfl
    | cons e es ih =>
      by_cases he : e.discardable = true
      · simp [he, ih, hrefusal e he]
      · simp [he, ih, List.filterMap_cons]
  refine ⟨?_, fun h hne => ?_⟩
  · rw [State.refusals, State.refusals, State.discardPins_queue, hfilter, howed]
  · rw [howed] at hne
    have hocc := s.refusalOccupied_iff.mp (h hne)
    rw [State.refusalOccupied_iff, State.records, State.discardPins_queue]
    rwa [discard_filter _ fun r => by cases r <;> simp [Record.isRefusal, Record.isPin]]

end Sys2Proof.Machine

/-! PROOFS. ABORT settled: each state's end, the records and refusals it leaves, and the lines. -/

namespace Sys2Proof.Machine

section
variable {s : State}

theorem State.abort_of_arming (h : s.stroke.state = .arming) :
    s.abort = (((s.queueRefusal (s.refusalOf .abandoned)).discardPending).enter .idle, .done) := by
  rw [State.abort, h]

theorem State.abort_of_running (h : s.stroke.state = .armed ∨ s.stroke.state = .acquiring) :
    s.abort = ((s.endStroke .aborted).discardPending, .done) := by
  obtain h | h := h <;> rw [State.abort, h]

theorem State.abort_of_closing (h : s.stroke.state = .closing) : s.abort = ((s.cutClosing .aborted).discardPending, .done) := by
  rw [State.abort, h]

theorem State.abort_of_reporting (h : s.stroke.state = .reporting) : s.abort = (s.discardPins.discardPending, .done) := by
  rw [State.abort, h]

/-- ABORT in ARMING: the arming's REFUSAL, then the pending plan's, and IDLE (R99). -/
theorem State.abort_arming (h : s.stroke.state = .arming) : s.abort.2 = .done ∧ s.abort.1.stroke.state = .idle ∧
    s.abort.1.stroke.pendingPlan = none ∧ s.abort.1.stroke.latched = s.stroke.latched ∧
    (s.owedOk → s.abort.1.refusals = s.refusals ++ (s.refusalOf .abandoned :: (s.stroke.pendingPlan.map abandonedPlan).toList)) := by
  rw [State.abort_of_arming h]
  refine ⟨rfl, by simp, ?_, ?_, fun ho => ?_⟩
  · rw [State.enter_stroke, State.discardPending_stroke]
  · rw [State.enter_stroke, State.discardPending_stroke, State.queueRefusal_stroke]
  · have hr := State.queueRefusal_refusals s (s.refusalOf .abandoned) ho
    have hd := State.discardPending_refusals (State.queueRefusal_owedOk s (s.refusalOf .abandoned) ho)
    rw [hr, State.queueRefusal_stroke, List.append_assoc] at hd
    rw [State.refusals_congr (s := (s.queueRefusal (s.refusalOf .abandoned)).discardPending) (by simp) (by simp)]
    exact hd

/-- ABORT outside IDLE and ARMING: one operation on the stroke that ends, then the pending plan's discard (R99). -/
theorem State.abort_discards {u : State} (hu : s.abort = (u.discardPending, .done)) (hp : u.stroke.pendingPlan = s.stroke.pendingPlan)
    (hl : u.stroke.latched = s.stroke.latched) (hr : u.refusals = s.refusals ∧ (s.owedOk → u.owedOk)) :
    s.abort.2 = .done ∧ s.abort.1.stroke.pendingPlan = none ∧ s.abort.1.stroke.latched = s.stroke.latched ∧
      (s.owedOk → s.abort.1.refusals = s.refusals ++ (s.stroke.pendingPlan.map abandonedPlan).toList) := by
  obtain ⟨hrefusals, howed⟩ := hr
  rw [hu]
  refine ⟨rfl, by rw [State.discardPending_stroke], by rw [State.discardPending_stroke]; exact hl, fun ho => ?_⟩
  rw [State.discardPending_refusals (howed ho), hrefusals, hp]

theorem State.discardPins_stroke (s : State) : s.discardPins.stroke = s.stroke := by simp

theorem State.abort_not_arming (hl : s.stroke.state ≠ .loading) (hi : s.stroke.state ≠ .idle) (ha : s.stroke.state ≠ .arming) :
    s.abort.2 = .done ∧ s.abort.1.stroke.pendingPlan = none ∧ s.abort.1.stroke.latched = s.stroke.latched ∧
      (s.owedOk → s.abort.1.refusals = s.refusals ++ (s.stroke.pendingPlan.map abandonedPlan).toList) := by
  have hrunning : s.stroke.state = .armed ∨ s.stroke.state = .acquiring → _ := fun h =>
    have ⟨_, _, he⟩ := s.endStroke_stroke .aborted
    State.abort_discards (State.abort_of_running h) (by rw [he]) (by rw [he]) (State.endStroke_refusals (by decide))
  cases hs : s.stroke.state with
  | loading => exact absurd hs hl
  | idle => exact absurd hs hi
  | arming => exact absurd hs ha
  | armed => exact hrunning (.inl hs)
  | acquiring => exact hrunning (.inr hs)
  | closing =>
    exact State.abort_discards (State.abort_of_closing hs) (by rw [State.cutClosing_stroke]) (by rw [State.cutClosing_stroke])
      (s.cutClosing_refusals _)
  | reporting =>
    exact State.abort_discards (State.abort_of_reporting hs) (by rw [s.discardPins_stroke]) (by rw [s.discardPins_stroke])
      s.discardPins_refusals

end

/-- What a command's record and its forwarding leave. -/
theorem State.recorded_forward_keeps (s : State) (code : Word) (r : CommandResult) (p : PortId) (q : Request) :
    ((s.recorded code r).forward p q).stroke = s.stroke ∧ ((s.recorded code r).forward p q).walker = s.walker ∧
      ((s.recorded code r).forward p q).lines = s.lines ∧ ((s.recorded code r).forward p q).records = s.records ∧
      ((s.recorded code r).forward p q).refusals = s.refusals := by
  simp [State.recorded, State.records, State.refusals]

theorem exec_abort_recorded {s : State} (hs : s.serves) : exec (.abort (s.oneBeat 0x2420 (fullBeat 1))) s =
    .next ((s.abort.1.recorded 1 s.abort.2).forward .s (.write (s.oneBeat 0x2420 (fullBeat 1)))) := by
  have hact : s.ownerActs (fullBeat 1) = s.abort := rfl
  rw [exec_command rfl hs, hact]

/-- The lines after the records of an ABORT in REPORTING: a new head is taken up on a full ring (R126, R185). -/
theorem State.discardPins_lines (s : State) :
    (s.headDiscardable = true → s.discardPins.writer.queue ≠ [] → s.ringFull = true → s.writerBusy = false →
      s.discardPins.lines = { s.lines with flags := s.lines.flags ||| 0x20#9 } ∧ s.discardPins.writer.waitMarked = true) ∧
    (¬ (s.headDiscardable = true ∧ s.discardPins.writer.queue ≠ [] ∧ s.ringFull = true ∧ s.writerBusy = false) →
      s.discardPins.lines = s.lines) := by
  have hfull : s.pinsGone.ringFull = s.ringFull := rfl
  have hbusy : s.pinsGone.writerBusy = s.writerBusy := rfl
  have hqueue : s.discardPins.writer.queue = s.pinsGone.writer.queue := s.discardPins_queue
  refine ⟨fun hd hq hf hb => ?_, fun hn => ?_⟩
  · have hmark : s.pinsGone.writer.waitMarked = false := if_pos hd
    rw [hqueue] at hq
    rw [State.discardPins_eq, if_pos hd, State.takeUpHead, if_pos (by simp [hq, hfull, hf, hbusy, hb, hmark])]
    exact ⟨by rw [State.setFlag_lines]; rfl, by rw [State.setFlag_writer]⟩
  · rw [State.discardPins_eq]
    split
    · next hd =>
      rw [State.takeUpHead, if_neg]
      · rfl
      · intro h
        simp only [Bool.and_eq_true, Bool.not_eq_true', List.isEmpty_eq_false_iff, hbusy, hfull] at h
        obtain ⟨⟨⟨hq, hb⟩, hf⟩, -⟩ := h
        exact hn ⟨hd, by rwa [hqueue], hf, hb⟩
    · rfl

theorem State.discardPins_walker (s : State) : s.discardPins.walker = { s.walker with
    omitted := s.walker.omitted + (s.writer.queue.filter ReportEntry.discardable).length } := by
  have hlen : s.writer.queue.length - (s.writer.queue.filter fun e => !e.discardable).length =
      (s.writer.queue.filter ReportEntry.discardable).length := by
    have := List.length_eq_length_filter_add (l := s.writer.queue) ReportEntry.discardable
    omega
  rw [← hlen, State.discardPins_eq]
  split
  · simp [State.pinsGone]
  · rfl

/-- Settles O17. -/
theorem abortByState : Obligations.AbortByState := by
  refine ⟨fun s hs ho => ⟨fun hi => ?_, fun hi => ?_⟩, fun s hs hp => ⟨fun hst h0 => ?_, fun hst h0 ha => ?_, fun hst => ?_⟩,
    fun s hs hst hp => ?_⟩
  · have hbusy : s.abort = (s, .busy) := by rw [State.abort, hi]
    rw [exec_abort_recorded hs, hbusy]
  · refine ⟨_, exec_abort_recorded hs, ?_⟩
    let w := s.oneBeat 0x2420 (fullBeat 1)
    obtain ⟨hstroke, hwalker, hlines, hrecords, hrefusals⟩ := s.abort.1.recorded_forward_keeps 1 s.abort.2 .s (.write w)
    have hdone : s.abort.2 = .done ∧ s.abort.1.stroke.pendingPlan = none ∧ s.abort.1.stroke.latched = s.stroke.latched := by
      by_cases ha : s.stroke.state = .arming
      · obtain ⟨h1, -, h2, h3, -⟩ := State.abort_arming ha
        exact ⟨h1, h2, h3⟩
      · obtain ⟨h1, h2, h3, -⟩ := State.abort_not_arming hs.2 hi ha
        exact ⟨h1, h2, h3⟩
    rw [hstroke, hwalker, hlines, hrefusals]
    refine ⟨by simp [State.forward], by simp [State.recorded], by simp [State.recorded, hdone.1], hdone.2.1, hdone.2.2,
      by simp [State.recorded], by simp [State.recorded], by simp [State.recorded], by simp [State.recorded],
      by simp [State.recorded], by simp, by simp, fun ha => ?_, fun ha => ?_, fun hr => ?_, fun hr h0 => ?_, fun hc => ?_, fun hr => ?_⟩
    · obtain ⟨-, h1, -, -, h2⟩ := State.abort_arming ha
      exact ⟨h1, h2 ho⟩
    · exact (State.abort_not_arming hs.2 hi ha).2.2.2 ho
    · obtain ⟨h1, h2, h3, -, h5, -⟩ := s.endStroke_ended .aborted
      rw [State.abort_of_running hr, State.discardPending_stroke]
      refine ⟨h1, h2, h3, h5, ?_⟩
      have hdropped := (s.endStroke_roomWaitDropped .aborted).andThen (u := (s.endStroke .aborted).discardPending)
        (fun p => State.port_congr (by simp) (by simp) p) (s.endStroke .aborted).discardPending_lines
      exact State.roomWaitDropped_forward _ hs.1.1 hdropped
    · have hbegun := (State.endStroke_walkBegun (s := s) (o := .aborted) (by decide) (Nat.pos_iff_ne_zero.mp h0)).1
      intro n hn ha hl
      obtain ⟨h1, h2⟩ := hbegun n hn ha hl
      rw [hstroke, hwalker, State.abort_of_running (.inr hr), State.discardPending_stroke]
      exact ⟨h1, by simpa using h2⟩
    · have hcut := State.queueStrokeVerdict_walker (s.setOutcome .aborted) .aborted
      rw [State.abort_of_closing hc, State.discardPending_stroke, State.cutClosing_stroke]
      simp [State.cutClosing, hcut]
    · rw [State.abort_of_reporting hr, State.discardPending_stroke, State.discardPins_stroke]
      exact ⟨rfl, hr⟩
  all_goals
    refine ⟨_, exec_abort_recorded hs, ?_⟩
    let w := s.oneBeat 0x2420 (fullBeat 1)
    obtain ⟨hstroke, hwalker, hlines, hrecords, -⟩ := s.abort.1.recorded_forward_keeps 1 s.abort.2 .s (.write w)
  · have hend : s.abort.1 = s.endStroke .aborted := by
      obtain ⟨_, _, he⟩ := s.endStroke_stroke .aborted
      rw [State.abort_of_running (.inl hst), State.discardPending_of_none (by rw [he]; exact hp)]
    unfold State.endedEmpty
    rw [hstroke, hwalker, hrecords, hend]
    exact State.endStroke_endedEmpty (by decide) h0
  · have hend : s.abort.1 = s.endStroke .aborted := by
      obtain ⟨_, _, he⟩ := s.endStroke_stroke .aborted
      rw [State.abort_of_running (.inr hst), State.discardPending_of_none (by rw [he]; exact hp)]
    have hq := (State.endStroke_walkBegun (s := s) (o := .aborted) (by decide) (Nat.pos_iff_ne_zero.mp h0)).2 ha
    rw [← hend] at hq
    simpa [State.recorded] using hq
  · have hcut : s.abort.1 = s.cutClosing .aborted := by
      rw [State.abort_of_closing hst, State.discardPending_of_none (by rw [State.cutClosing_stroke]; exact hp)]
    rw [hrecords, hlines, hcut]
    exact ⟨s.cutClosing_records _, State.queueStrokeVerdict_lines (s.setOutcome .aborted) _⟩
  · have hgone : s.abort.1 = s.discardPins := by
      rw [State.abort_of_reporting hst, State.discardPending_of_none (by rw [s.discardPins_stroke]; exact hp)]
    have hqueue : ((s.abort.1.recorded 1 s.abort.2).forward .s (.write w)).writer.queue = s.discardPins.writer.queue := by
      simp [State.recorded, hgone]
    have hmark : ((s.abort.1.recorded 1 s.abort.2).forward .s (.write w)).writer.waitMarked = s.discardPins.writer.waitMarked := by
      simp [State.recorded, hgone]
    have hhead : ∀ q : List ReportEntry, (∃ e es, s.writer.queue = e :: es ∧ e.record.isPin = true ∧ e.issued = false ∧ q ≠ []) ↔
        s.headDiscardable = true ∧ q ≠ [] := fun q => by
      unfold State.headDiscardable
      cases hq : s.writer.queue with
      | nil => simp
      | cons e es => simp [ReportEntry.discardable, and_assoc]
    obtain ⟨htaken, hquiet⟩ := s.discardPins_lines
    rw [hqueue, hwalker, hlines, hmark, hgone, State.discardPins_walker]
    refine ⟨s.discardPins_queue, rfl, rfl, fun hn hf hb => ?_, fun hn => hquiet fun ⟨hd, hq, hf, hb⟩ => ?_⟩
    · obtain ⟨hd, hq⟩ := (hhead _).mp hn
      exact htaken hd hq hf hb
    · exact hn ⟨(hhead _).mpr ⟨hd, hq⟩, hf, hb⟩

end Sys2Proof.Machine

/-! PROOFS. Landing writes: dropped, held for room, and taken. -/

namespace Sys2Proof.Machine

/-! ## A landing write at its port -/

theorem State.landingAccepted_iff (s : State) (p : PortId) (w : Write) : s.landingAccepted p w = true ↔
    p = (if (Plan.word s.stroke.latched 0).getLsbD 16 then .s else .a) ∧ (s.stroke.state = .armed ∨ s.stroke.state = .acquiring) ∧
      w.addr.toNat = landingBase s.recipe.shadow + 4 * s.remap.sequence ∧ ∀ b ∈ w.beats, b.enable = 0xF#4 := by
  simp only [State.landingAccepted, Plan.source, Bool.and_eq_true, Bool.or_eq_true, beq_iff_eq, List.all_eq_true, beat_full_iff,
    and_assoc]

theorem State.classify_landing {s : State} {p : PortId} {w : Write} (hr : s.inRegion w.addr.toNat = false)
    (hl : s.inLanding w.addr.toNat = true) : s.classify p (.write w) = s.landing p w := by
  simp [State.classify, Request.addr, hr, hl]

theorem exec_landingWrite {s : State} {p : PortId} {w : Write} (ho : s.portOpen p) (hw : (Request.write w).wellFormed = true)
    (hr : s.inRegion w.addr.toNat = false) (hl : s.inLanding w.addr.toNat = true) :
    exec (.landingWrite p w) s = .next (s.landing p w) := by
  rw [exec_request_open (c := .landingWrite p w) rfl ho hw, State.classify_landing hr hl]

theorem State.roomFor_iff (s : State) (n : Nat) : s.roomFor n = true ↔ s.remap.queue.length + n ≤ 64 := decide_eq_true_iff

/-- Settles O28. -/
theorem landingWriteNotTaken : Obligations.LandingWriteNotTaken := by
  refine ⟨fun p w s ho hw hr hl hbad => ?_, fun p w s ho hw hr hl ha hfull => ?_⟩
  · have hnot : s.landingAccepted p w = false := by
      rw [← Bool.not_eq_true, State.landingAccepted_iff]
      rintro ⟨hp, hst, haddr, hfull⟩
      obtain h | ⟨h1, h2⟩ | h | ⟨b, hb, h⟩ := hbad
      · exact h hp
      · exact hst.elim h1 h2
      · exact h haddr
      · exact h (hfull b hb)
    have hlive : ¬ (s.stroke.state = .arming) := fun h => by simp [State.inLanding, State.windowLive, h] at hl
    rw [exec_landingWrite ho hw hr hl, State.landing, hnot, if_neg Bool.false_ne_true, State.answer_of_free ho.1,
      State.refuseWrite_of_unnoticed w.addr (.inr rfl)]
    · cases p <;> rfl
    · simpa using fun h => absurd h hlive
  · have hroom : s.roomFor w.beats.length = false := by
      rw [← Bool.not_eq_true, State.roomFor_iff]
      omega
    rw [exec_landingWrite ho hw hr hl, State.landing, if_pos ha, hroom]
    rfl

/-- A landing write that is accepted and finds room is taken, presented now or waiting before; the port aside, the state is the same. -/
theorem exec_takeLanding {c : Instr} {s : State} {p : PortId} {w : Write}
    (hc : (c = .landingWrite p w ∧ s.portOpen p ∧ (Request.write w).wellFormed = true) ∨
      (c = .waitingLandingWriteTaken p ∧ (s.port p).status = .waiting (.write w) .room))
    (hr : s.inRegion w.addr.toNat = false) (hl : s.inLanding w.addr.toNat = true) (ha : s.landingAccepted p w = true)
    (hroom : s.remap.queue.length + w.beats.length ≤ 64) :
    ∃ np : NearPort, exec c s = .next ((s.setPort p np).takeLanding p w) := by
  obtain ⟨rfl, ho, hw⟩ | ⟨rfl, hst⟩ := hc
  · refine ⟨s.port p, ?_⟩
    rw [exec_landingWrite ho hw hr hl, State.landing, if_pos ha, if_pos ((s.roomFor_iff _).mpr hroom), State.setPort_port]
  · refine ⟨{ s.port p with status := .free }, congrArg Host.Outcome.next ?_⟩
    have hover : s.waitOver (.write w) .room = true := (s.roomFor_iff _).mpr hroom
    have hland : (s.freePort p).landing p w = (s.freePort p).takeLanding p w := by
      have ha' : (s.freePort p).landingAccepted p w = true := by cases p <;> exact ha
      have hr' : (s.freePort p).roomFor w.beats.length = true := by cases p <;> exact (s.roomFor_iff _).mpr hroom
      rw [State.landing, if_pos ha', if_pos hr']
    rw [endWait_eq hst, if_pos hover, State.classify_landing (by rwa [State.inRegion_freePort]) (by rwa [State.inLanding_freePort]),
      hland]
    rfl

/-! ## The beats taken -/

/-- A burst that raises a halting condition has a beat, in ACQUIRING with samples from port A (R52). -/
theorem State.landBeats_halted {s : State} {o : Nat} {h : Bool} {bs : List Beat} (hh : (s.landBeats o h bs).2 = true) :
    h = true ∨ (bs ≠ [] ∧ s.haltingScope = true) := by
  induction bs generalizing s o h with
  | nil => exact .inl hh
  | cons b bs ih =>
    rw [State.landBeats] at hh
    obtain hb | ⟨-, hscope⟩ := ih hh
    · have hpresent : (s.landBeat o b h).2 = true → h = true ∨ s.haltingScope = true := by
        unfold State.landBeat State.presentBeat
        dsimp only
        split
        · exact .inl
        · intro hj
          rw [Bool.and_eq_true] at hj
          exact .inr hj.1
      exact (hpresent hb).imp_right fun hs => ⟨by simp, hs⟩
    · exact .inr ⟨by simp, by simpa [State.haltingScope] using hscope⟩

/-- The state the judgement of a taken write reads. -/
theorem State.sameJudge_acquiring (s : State) (p : PortId) (np : NearPort) :
    (s.setPort p np).startAcquiring.sameJudge { s with stroke := { s.stroke with state := .acquiring } } := by
  simp [State.sameJudge]

/-- The stroke controller after the samples of a write (R68, R94). -/
theorem State.landed_stroke (s : State) (p : PortId) (w : Write) : (s.landed p w).stroke = { s.stroke with
    state := .acquiring
    armTimer := none
    stallTimer := some (Plan.stallLimit s.stroke.latched)
    samplesTaken := s.remap.sequence + s.offsetsFor w.beats.length
    stepsTaken := stepsAfter s.stroke.latched s.cells (s.remap.sequence + s.offsetsFor w.beats.length) } := by
  simp [State.landed, State.landRun, State.cells]

@[simp] theorem State.landed_frame (s : State) (p : PortId) (w : Write) : (s.landed p w).recipe = s.recipe ∧
    (s.landed p w).protection = s.protection ∧ (s.landed p w).arbiter = s.arbiter ∧ (s.landed p w).lines = s.lines ∧
    (s.landed p w).walker = s.walker ∧ (s.landed p w).writer.queue = s.writer.queue := by
  simp [State.landed, State.landRun, State.startAcquiring]

theorem State.landed_port (s : State) (p : PortId) (w : Write) : (s.landed p w).port p = { s.port p with
    status := .free, answer := some (if s.offsetsFor w.beats.length < w.beats.length then .trimmed else .done) } := by
  rw [State.landed, State.port_answer_self, State.port_congr (s := s) (by simp [State.landRun]) (by simp [State.landRun])]

/-! ## The end of a stroke, at a port that waits for nothing and at the flags it does not raise -/

theorem State.dropWaiting_cases (s : State) (q : PortId) : s.dropWaiting q = s ∨ ∃ w, (s.port q).status = .waiting (.write w) .room ∧
    s.dropWaiting q = (s.answer q .dropped).refuseWrite .stray w.addr := by
  unfold State.dropWaiting
  split
  · next w h => exact .inr ⟨w, h, rfl⟩
  all_goals exact .inl rfl

/-- The end of a wait for room leaves a FREE port as it is. -/
theorem State.dropWaiting_port_free {s : State} {p : PortId} (q : PortId) (h : (s.port p).status = .free) :
    (s.dropWaiting q).port p = s.port p := by
  obtain he | ⟨w, hw, he⟩ := s.dropWaiting_cases q
  · rw [he]
  · have hne : p ≠ q := fun e => by
      subst e
      rw [h] at hw
      cases hw
    rw [he, State.port_congr (s := s.answer q .dropped) (by simp) (by simp), State.answer, State.port_setPort_ne _ _ _ _ hne]

theorem State.dropWaiting_flagSet_ne {s : State} {f : EventFlag} (q : PortId) (hs : s.stroke.state ≠ .arming) (hf : f ≠ .stray) :
    (s.dropWaiting q).flagSet f = s.flagSet f := by
  by_cases hw : ∃ w, (s.port q).status = .waiting (.write w) .room
  · obtain ⟨w, hw⟩ := hw
    rw [State.dropWaiting_of_waiting hs hw, State.flagSet_setFlag, State.flagSet_captureRefused]
    simp [State.flagSet, hf]
  · rw [State.dropWaiting_of_not fun w e => hw ⟨w, e⟩]

/-- A stroke that ends is a state in CLOSING or REPORTING, its waits for room dropped then. -/
theorem State.endStroke_eq (s : State) (o : StrokeOutcome) : ∃ u : State, (u.stroke.state = .closing ∨ u.stroke.state = .reporting) ∧
    u.portA = s.portA ∧ u.portS = s.portS ∧ (∀ f, f ≠ .ringWait → u.flagSet f = s.flagSet f) ∧
    s.endStroke o = (u.dropWaiting .a).dropWaiting .s := by
  unfold State.endStroke
  dsimp only
  split
  · exact ⟨_, .inr (by rw [State.queueStrokeVerdict_stroke]), by simp, by simp,
      fun f hf => State.flagSet_queueStrokeVerdict (s.setOutcome o) o hf, rfl⟩
  · split
    · exact ⟨_, .inr (by rw [State.queueStrokeVerdict_stroke]), by simp, by simp, fun f hf => by
        rw [State.flagSet_queueStrokeVerdict _ o hf, State.flagSet_queueEmptySlots _ _ hf]; rfl, rfl⟩
    · refine ⟨_, ?_, by simp, by simp, fun f hf => State.flagSet_startWalk (s.setOutcome o) o hf, rfl⟩
      obtain h | h := State.startWalk_stroke (s.setOutcome o) o <;> rw [h]
      · exact .inl rfl
      · exact .inr rfl

theorem State.endStroke_port {s : State} {p : PortId} (o : StrokeOutcome) (h : (s.port p).status = .free) :
    (s.endStroke o).port p = s.port p := by
  obtain ⟨u, -, hA, hS, -, he⟩ := s.endStroke_eq o
  have hu := State.port_congr hA hS p
  have ha : (u.dropWaiting .a).port p = s.port p := (State.dropWaiting_port_free .a (by rwa [hu])).trans hu
  rw [he, State.dropWaiting_port_free .s (by rwa [ha]), ha]

theorem State.endStroke_flagSet {s : State} {f : EventFlag} (o : StrokeOutcome) (hr : f ≠ .ringWait) (hs : f ≠ .stray) :
    (s.endStroke o).flagSet f = s.flagSet f := by
  obtain ⟨u, hst, -, -, hf, he⟩ := s.endStroke_eq o
  have hu : u.stroke.state ≠ .arming := by obtain h | h := hst <;> simp [h]
  have ha : (u.dropWaiting .a).stroke.state ≠ .arming := by rwa [State.dropWaiting_stroke hu]
  rw [he, State.dropWaiting_flagSet_ne .s ha hs, State.dropWaiting_flagSet_ne .a hu hs, hf f hr]

/-- A write halts the stroke with the latch set and HALT raised, then ends it (R53, R97). -/
theorem State.haltStroke_eq {s : State} (h : s.stroke.state = .acquiring) :
    s.haltStroke = ((s.setHaltLatch true).setFlag .halt).endStroke .halted := by
  rw [State.haltStroke, State.raise_of_not_arming (by simp [h])]

/-- The three ends of a taken landing write: each is the write's samples taken, the halt latch and HALT or not, and a stroke ended or
not. -/
theorem State.takeLanding_cases (s : State) (p : PortId) (w : Write) :
    ((s.landRun w).2 = true ∧ s.takeLanding p w = (((s.landed p w).setHaltLatch true).setFlag .halt).endStroke .halted) ∨
    ((s.landRun w).2 = false ∧ s.remap.sequence + s.offsetsFor w.beats.length = s.cells * s.steps ∧
      s.takeLanding p w = (s.landed p w).endStroke .complete) ∨
    ((s.landRun w).2 = false ∧ s.remap.sequence + s.offsetsFor w.beats.length ≠ s.cells * s.steps ∧
      s.takeLanding p w = s.landed p w) := by
  rw [State.takeLanding_eq]
  split
  · next h => exact .inl ⟨h, State.haltStroke_eq (s.landed_state p w)⟩
  · next h =>
    split
    · next he => exact .inr (.inl ⟨by simpa using h, he, rfl⟩)
    · next he => exact .inr (.inr ⟨by simpa using h, he, rfl⟩)

/-- The low three bytes of a sample go to the grid as sent (R67). -/
theorem stamp_low (w : Word) (t : Tag) : (stamp w t).extractLsb' 0 24 = w.extractLsb' 0 24 := by
  have hplace : ∀ v lo len i, i < 24 → 24 ≤ lo → (place v lo len).getLsbD i = false := fun v lo len i hi hlo => by
    rw [place, BitVec.getLsbD_ofNat, Nat.testBit_mul_two_pow]
    simp [show ¬ lo ≤ i by omega]
  have hmask : ∀ i : Fin 24, (0x00FFFFFF#32).getLsbD i = true := by decide
  refine BitVec.eq_of_getLsbD_eq fun i hi => ?_
  have hm := hmask ⟨i, hi⟩
  simp only [stamp, BitVec.getLsbD_extractLsb', BitVec.getLsbD_or, BitVec.getLsbD_and, Nat.zero_add, hi, hplace _ _ _ i hi (by decide : 24 ≤ 24),
    hplace _ _ _ i hi (by decide : 24 ≤ 28), hplace _ _ _ i hi (by decide : 24 ≤ 30), hplace _ _ _ i hi (by decide : 24 ≤ 31), hm]
  simp

end Sys2Proof.Machine

/-! PROOFS. A landing write taken: its samples queued and judged, and the end of the stroke. -/

namespace Sys2Proof.Machine

/-- The beats of a taken write, presented as one burst (R64, R67). -/
theorem State.landRun_burst (s : State) (p : PortId) (np : NearPort) (w : Write) :
    let m := s.offsetsFor w.beats.length
    let u : State := { s with stroke := { s.stroke with state := .acquiring } }
    let burst := u.presentBurst s.remap.sequence false (w.beats.take m)
    let run := (s.setPort p np).landRun w
    run.2 = burst.2.1 ∧ run.1.checker = burst.2.2.checker ∧ m ≤ w.beats.length ∧ burst.1.length = m ∧
      ∃ new, run.1.remap.queue = s.remap.queue ++ new ∧ new.length = m ∧
        ∀ j < m, ∃ b t, w.beats[j]? = some b ∧ burst.1[j]? = some t ∧
          new[j]? = some (s.landEntry (s.remap.sequence + j) b t) := by
  intro m u burst run
  have hm : m ≤ w.beats.length := Nat.min_le_left _ _
  have hlen : (w.beats.take m).length = m := by rw [List.length_take, Nat.min_eq_left hm]
  have hoff : (s.setPort p np).offsetsFor w.beats.length = m := by simp [State.offsetsFor, State.cells, State.steps, m]
  obtain ⟨h1, h2, h3, new, h4, h5, h6⟩ := landBeats_presentBurst (s.sameJudge_acquiring p np) s.remap.sequence false (w.beats.take m)
  have hrun : run = (s.setPort p np).startAcquiring.landBeats s.remap.sequence false (w.beats.take m) := by
    simp only [run, State.landRun, hoff, State.setPort_frame]
  rw [hrun]
  refine ⟨h1, h2, hm, h3.trans hlen, new, by simpa using h4, h5.trans hlen, fun j hj => ?_⟩
  have hb : (w.beats.take m)[j]? = w.beats[j]? := List.getElem?_take_of_lt hj
  have hsome := List.getElem?_eq_getElem (lt_of_lt_of_le hj hm)
  obtain ⟨t, ht, hn⟩ := h6 j _ (hb.trans hsome)
  exact ⟨_, t, hsome, ht, hn⟩

/-- Settles O30. -/
theorem landingBeatJudged : Obligations.LandingBeatJudged := by
  refine ⟨fun s c step d halted hc => ⟨presentBeat_of_skipped, fun hn => ?_⟩, fun p w s c hcmd hr hl ha hroom => ?_⟩
  · have he : s.presentBeat c step d halted =
        let j := judge s.recipe.shadow (pinProfile s.recipe.shadow c) step d (s.pin c)
        (j.2, s.haltingScope && (s.faultCondition c j.1 || (s.putPin c j.1.ctx).thresholdCondition s.checker.totalFailing),
          s.putPin c j.1.ctx) := if_neg hn
    refine ⟨by rw [he], by rw [he]; exact s.pin_putPin_self c _ hc, fun c' h => by rw [he]; exact s.pin_putPin_ne c c' _ h,
      presentBeat_eq s c step d halted⟩
  · obtain ⟨np, hexec⟩ := exec_takeLanding hcmd hr hl ha hroom
    obtain ⟨-, hchecker, -, hburst, new, hqueue, hnew, hentries⟩ := s.landRun_burst p np w
    have hC : s.cells ≤ 1024 := by
      simp only [State.inLanding, Bool.and_eq_true, decide_eq_true_eq] at hl
      exact hl.1.1.2
    refine ⟨_, new, hexec, ?_, ?_, hnew, hburst, fun j hj => ?_, fun j hj => ?_⟩
    · refine Eq.trans ?_ hchecker
      obtain ⟨-, he⟩ | ⟨-, -, he⟩ | ⟨-, -, he⟩ := (s.setPort p np).takeLanding_cases p w <;> rw [he] <;> simp [State.landed]
    · refine Eq.trans ?_ hqueue
      obtain ⟨-, he⟩ | ⟨-, -, he⟩ | ⟨-, -, he⟩ := (s.setPort p np).takeLanding_cases p w <;> rw [he] <;> simp [State.landed]
    · have hlt : s.remap.sequence + j < s.cells * Plan.stepCount s.stroke.latched := by
        have : j < s.cells * s.steps - s.remap.sequence := lt_of_lt_of_le hj (Nat.min_le_right _ _)
        unfold State.steps at this
        omega
      exact lt_of_lt_of_le (toolOf_lt hlt).1 hC
    · obtain ⟨b, t, hb, ht, hn⟩ := hentries j hj
      exact ⟨_, b, t, hn, hb, ht, rfl⟩

/-- What every taken landing write leaves, whatever ends with it (R55, R68, R69). -/
def State.Took (s : State) (p : PortId) (w : Write) (t : State) : Prop :=
  let k := s.remap.sequence + s.offsetsFor w.beats.length
  t.remap.sequence = k ∧ t.stroke.samplesTaken = k ∧ t.stroke.stepsTaken = stepsAfter s.stroke.latched s.cells k ∧
    t.port p = (s.landed p w).port p ∧ t.remap.queue = (s.landRun w).1.remap.queue ∧ t.recipe = s.recipe ∧
    t.protection = s.protection ∧ t.arbiter = s.arbiter ∧ t.stroke.latched = s.stroke.latched ∧
    t.stroke.pendingPlan = s.stroke.pendingPlan ∧ t.stroke.armTimer = none

theorem State.took_landed (s : State) (p : PortId) (w : Write) : s.Took p w (s.landed p w) := by
  unfold State.Took
  rw [s.landed_stroke]
  simp [State.landed, State.landRun]

theorem State.Took.endStroke {s u : State} {p : PortId} {w : Write} (o : StrokeOutcome) (h : s.Took p w u) :
    s.Took p w (u.endStroke o) := by
  obtain ⟨h1, h2, h3, h4, h5, h6, h7, h8, h9, h10, h11⟩ := h
  obtain ⟨st, -, hend⟩ := u.endStroke_stroke o
  have hfree : (u.port p).status = .free := by rw [h4, State.landed_port]
  unfold State.Took
  rw [hend, State.endStroke_port o hfree]
  exact ⟨by simpa using h1, h2, h3, h4, by simpa using h5, by simpa using h6, by simpa using h7, by simpa using h8, h9, h10, rfl⟩

theorem State.takeLanding_took (s : State) (p : PortId) (w : Write) : s.Took p w (s.takeLanding p w) := by
  obtain ⟨-, he⟩ | ⟨-, -, he⟩ | ⟨-, -, he⟩ := s.takeLanding_cases p w <;> rw [he]
  · refine State.Took.endStroke _ ?_
    have h := s.took_landed p w
    have hport := State.port_congr (s := s.landed p w) (t := ((s.landed p w).setHaltLatch true).setFlag .halt) (by simp) (by simp) p
    unfold State.Took at h ⊢
    rw [hport]
    simpa using h
  · exact (s.took_landed p w).endStroke _
  · exact s.took_landed p w

/-- A stroke that ends with samples taken, after a landing write (R70, R102). -/
theorem State.endStroke_landed {s u : State} {p : PortId} {w : Write} {o : StrokeOutcome} (ho : o ≠ .recipeChanged)
    (hst : u.stroke = (s.landed p w).stroke) (hwk : u.walker = s.walker) (hrc : u.recipe = s.recipe)
    (hq : u.writer.queue = s.writer.queue) (hpos : s.remap.sequence + s.offsetsFor w.beats.length ≠ 0) :
    (u.endStroke o).stroke.outcome = some o ∧ (u.endStroke o).stroke.stallTimer = none ∧
      ((u.endStroke o).stroke.state = .closing ∨ (u.endStroke o).stroke.state = .reporting) ∧
      ((∃ n < 4, Plan.active s.stroke.latched n = true) →
        (u.endStroke o).stroke.state = .closing ∧ (u.endStroke o).writer.queue = s.writer.queue) ∧
      s.walkBegun (u.endStroke o) := by
  have hlatched : u.stroke.latched = s.stroke.latched := by rw [hst, s.landed_stroke]
  have hsamples : u.stroke.samplesTaken ≠ 0 := by
    rw [hst, s.landed_stroke]
    exact hpos
  obtain ⟨h1, -, h3, -, h5, -⟩ := u.endStroke_ended o
  obtain ⟨hbegun, hqueue⟩ := State.endStroke_walkBegun ho hsamples
  refine ⟨h1, h3, h5, fun ha => ?_, ?_⟩
  · rw [← hlatched] at ha
    exact ⟨hbegun.closing ha, (hqueue ha).trans hq⟩
  · intro n hn ha hl
    rw [← hlatched] at ha hl
    have := hbegun n hn ha hl
    rwa [hwk, hrc] at this

/-- Settles O29. -/
theorem landingWriteTaken : Obligations.LandingWriteTaken := by
  intro p w s c hcmd hr hl hp hst haddr hfull hroom C S k m burst halted
  have ha : s.landingAccepted p w = true := (s.landingAccepted_iff p w).mpr ⟨hp, hst, haddr, hfull⟩
  obtain ⟨np, hexec⟩ := exec_takeLanding hcmd hr hl ha hroom
  let v := s.setPort p np
  have hoff : v.offsetsFor w.beats.length = m := by simp [State.offsetsFor, State.cells, State.steps, v, m, C, S, k]
  have hseq : v.remap.sequence = k := by simp [v, k]
  obtain ⟨hhalted, -, hm, -, new, hqueue, hnew, hentries⟩ := s.landRun_burst p np w
  have hhalt : (v.landRun w).2 = halted := hhalted
  have hpos : k + m ≠ 0 ∨ (halted = false ∧ k + m ≠ C * S) := by
    have hC : 1 ≤ C ∧ 0 < S := by
      simp only [State.inLanding, Bool.and_eq_true, decide_eq_true_eq] at hl
      obtain ⟨⟨⟨⟨-, hC⟩, -⟩, hlow⟩, hhigh⟩ := hl
      refine ⟨hC, Nat.pos_of_ne_zero fun h0 => ?_⟩
      have hz : footprint s.cells s.steps = 0 := by
        rw [show s.steps = 0 from h0]
        simp [footprint]
      omega
    by_cases h0 : k + m = 0
    · have hm0 : m = 0 := by omega
      have hCS : C * S ≠ 0 := Nat.mul_ne_zero (by omega) (by omega)
      refine .inr ⟨?_, by omega⟩
      have hb : burst = State.presentBurst { s with stroke := { s.stroke with state := .acquiring } } k false (w.beats.take m) := rfl
      simp [halted, hb, hm0, State.presentBurst]
    · exact .inl h0
  obtain ⟨h1, h2, h3, h4, h5, -, -, -, h9, h10, h11⟩ := v.takeLanding_took p w
  have hcells : v.cells = C := by simp [State.cells, v, C]
  have hsteps : v.steps = S := by simp [State.steps, v, S]
  rw [hoff, hseq] at h1 h2 h3
  rw [State.landed_port, hoff] at h4
  refine ⟨_, hexec, h1, h2, ?_, by rw [h4], by rw [h4], ⟨new, h5.trans hqueue, hnew, fun j hj => ?_⟩, by simp,
    by simp, by simp, by simpa [v] using h9, by simpa [v] using h10, h11, ?_⟩
  · rw [h3, hcells]
    simp [stepsAfter, Plan.cellMajor, v, S]
  · obtain ⟨b, t, hb, -, hn⟩ := hentries j hj
    exact ⟨_, b, hn, hb, rfl, stamp_low b.data t, rfl, rfl⟩
  · have hlatched : v.stroke.latched = s.stroke.latched := by simp [v]
    have hbegun : ∀ {t : State}, v.walkBegun t → s.walkBegun t := fun h => by
      simpa [State.walkBegun, v] using h
    have hcases := v.takeLanding_cases p w
    rw [hhalt, hoff, hseq, hcells, hsteps] at hcases
    obtain ⟨hh, he⟩ | ⟨hh, hend, he⟩ | ⟨hh, hend, he⟩ := hcases <;> rw [he]
    · obtain ⟨hne, hscope⟩ : w.beats.take (v.offsetsFor w.beats.length) ≠ [] ∧ v.startAcquiring.haltingScope = true :=
        (State.landBeats_halted (hhalt.trans hh)).resolve_left Bool.false_ne_true
      have hsource : Plan.source s.stroke.latched = .a := by
        simpa [State.haltingScope, v] using hscope
      let u := ((v.landed p w).setHaltLatch true).setFlag .halt
      have hflag : (u.endStroke .halted).flagSet .halt = true := by
        rw [State.endStroke_flagSet _ (by decide) (by decide), State.flagSet_setFlag]
        simp
      obtain ⟨e1, e2, e3, e4, e5⟩ := State.endStroke_landed (s := v) (u := u) (p := p) (w := w) (o := .halted) (by decide) (by simp [u])
        (by simp [u]) (by simp [u]) (by simp [u]) (by
          rw [hoff, hseq]
          exact hpos.resolve_right fun h => by rw [hh] at h; cases h.1)
      rw [hh]
      refine ⟨nofun, nofun, nofun, fun _ => ⟨e1, by simp, hflag, hp.trans hsource⟩, fun _ => ⟨e2, e3, ?_, hbegun e5⟩⟩
      simpa [v] using e4
    · obtain ⟨e1, e2, e3, e4, e5⟩ := State.endStroke_landed (s := v) (u := v.landed p w) (o := .complete) (by decide) rfl
        (by simp) (by simp) (by simp) (by
          rw [hoff, hseq]
          exact hpos.resolve_right fun h => h.2 hend)
      rw [hh]
      refine ⟨fun _ h => absurd hend h, fun _ _ => e1, fun _ => ⟨?_, ?_⟩, nofun, fun _ => ⟨e2, e3, ?_, hbegun e5⟩⟩
      · simp [v]
      · rw [State.endStroke_flagSet _ (by decide) (by decide)]
        simp [State.flagSet, v]
      · simpa [v] using e4
    · rw [hh]
      refine ⟨fun _ _ => ?_, fun _ h => absurd h hend, fun _ => ?_, nofun, fun h => absurd h (by simp [hend])⟩
      · rw [State.landed_stroke]
        simp [v]
      · simp [State.flagSet, v]

end Sys2Proof.Machine

/-! PROOFS. The judgement of a sample, stage by stage: what each stage changes of a context, and which faults it adds. -/

namespace Sys2Proof.Machine

/-! ## Adding a fault -/

/-- The fields of a context that no fault touches (R46). -/
@[simp] theorem PinContext.addFault_keeps (x : PinContext) (k : FaultKind) (st : Nat) :
    (x.addFault k st).zoneLatch = x.zoneLatch ∧ (x.addFault k st).entryStep = x.entryStep ∧
      (x.addFault k st).seatStep = x.seatStep ∧ (x.addFault k st).seated = x.seated ∧
      (x.addFault k st).peakForce = x.peakForce ∧ (x.addFault k st).peakStep = x.peakStep ∧
      (x.addFault k st).previousForce = x.previousForce ∧ (x.addFault k st).samplesChecked = x.samplesChecked := by
  rw [PinContext.addFault_frame]
  exact ⟨rfl, rfl, rfl, rfl, rfl, rfl, rfl, rfl⟩

theorem PinContext.addFault_of_member {x : PinContext} {k : FaultKind} (st : Nat) (h : x.hasFault k = true) : x.addFault k st = x :=
  if_pos h

theorem PinContext.addFault_of_new {x : PinContext} {k : FaultKind} (st : Nat) (h : x.hasFault k = false) : x.addFault k st = { x with
    health := .failed
    faults := (x.addFault k st).faults
    firstFault := if x.faults = 0#9 then some k else x.firstFault
    firstFaultStep := if x.faults = 0#9 then some st else x.firstFaultStep } := by
  simp [PinContext.addFault, h]

theorem Judging.add_ctx (j : Judging) (k : FaultKind) (st : Nat) : (j.add k st).ctx = j.ctx.addFault k st := by
  unfold Judging.add
  split
  · next h => rw [PinContext.addFault_of_member st h]
  · rfl

@[simp] theorem Judging.add_keeps (j : Judging) (k : FaultKind) (st : Nat) :
    (j.add k st).ctx.tally = j.ctx.tally ∧ (j.add k st).ctx.zoneLatch = j.ctx.zoneLatch ∧
      (j.add k st).ctx.entryStep = j.ctx.entryStep ∧ (j.add k st).ctx.seatStep = j.ctx.seatStep ∧
      (j.add k st).ctx.seated = j.ctx.seated ∧ (j.add k st).ctx.peakForce = j.ctx.peakForce ∧
      (j.add k st).ctx.peakStep = j.ctx.peakStep ∧ (j.add k st).ctx.previousForce = j.ctx.previousForce ∧
      (j.add k st).ctx.samplesChecked = j.ctx.samplesChecked ∧ (j.add k st).mark = j.mark := by
  rw [Judging.add_ctx]
  refine ⟨by simp, by simp, by simp, by simp, by simp, by simp, by simp, by simp, by simp, ?_⟩
  unfold Judging.add
  split <;> rfl

@[simp] theorem Judging.addIf_keeps (j : Judging) (b : Bool) (k : FaultKind) (st : Nat) :
    (j.addIf b k st).ctx.tally = j.ctx.tally ∧ (j.addIf b k st).ctx.zoneLatch = j.ctx.zoneLatch ∧
      (j.addIf b k st).ctx.entryStep = j.ctx.entryStep ∧ (j.addIf b k st).ctx.seatStep = j.ctx.seatStep ∧
      (j.addIf b k st).ctx.seated = j.ctx.seated ∧ (j.addIf b k st).ctx.peakForce = j.ctx.peakForce ∧
      (j.addIf b k st).ctx.peakStep = j.ctx.peakStep ∧ (j.addIf b k st).ctx.previousForce = j.ctx.previousForce ∧
      (j.addIf b k st).ctx.samplesChecked = j.ctx.samplesChecked ∧ (j.addIf b k st).mark = j.mark := by
  cases b <;> simp [Judging.addIf]

theorem Judging.hasFault_add (j : Judging) (k i : FaultKind) (st : Nat) :
    (j.add k st).ctx.hasFault i = (j.ctx.hasFault i || i == k) := by
  rw [Judging.add_ctx, PinContext.hasFault_addFault]

theorem Judging.hasFault_addIf (j : Judging) (b : Bool) (k i : FaultKind) (st : Nat) :
    (j.addIf b k st).ctx.hasFault i = (j.ctx.hasFault i || (b && i == k)) := by
  cases b <;> simp [Judging.addIf, Judging.hasFault_add]

/-! ## New faults -/

/-- The judgement has kept every fault of the context it began with, and its two flags say whether a kind is new and whether a halting
kind is (R47, R50). -/
def Judging.Tracks (x : PinContext) (j : Judging) : Prop :=
  (∀ k, x.hasFault k = true → j.ctx.hasFault k = true) ∧
    (j.newFault = true ↔ ∃ k, j.ctx.hasFault k = true ∧ x.hasFault k = false) ∧
    (j.halting = true ↔ ∃ k : FaultKind, k.halting = true ∧ j.ctx.hasFault k = true ∧ x.hasFault k = false)

theorem Judging.Tracks.start (x : PinContext) : Judging.Tracks x { ctx := x, newFault := false, mark := false, halting := false } := by
  refine ⟨fun _ h => h, ?_, ?_⟩ <;> simp

/-- A change of the context that keeps its faults. -/
theorem Judging.Tracks.same {x : PinContext} {i j : Judging} (h : Judging.Tracks x i) (hf : j.ctx.faults = i.ctx.faults)
    (hn : j.newFault = i.newFault) (hh : j.halting = i.halting) : Judging.Tracks x j := by
  have hmem : ∀ k, j.ctx.hasFault k = i.ctx.hasFault k := fun k => by rw [PinContext.hasFault, hf]; rfl
  simpa only [Judging.Tracks, hmem, hn, hh] using h

theorem Judging.Tracks.add {x : PinContext} {j : Judging} (h : Judging.Tracks x j) (k : FaultKind) (st : Nat) :
    Judging.Tracks x (j.add k st) := by
  obtain ⟨hkeep, hnew, hhalt⟩ := h
  by_cases hk : j.ctx.hasFault k = true
  · have he : j.add k st = j := if_pos hk
    rw [he]
    exact ⟨hkeep, hnew, hhalt⟩
  · have hx : x.hasFault k = false := by simpa using mt (hkeep k) hk
    have he : (j.add k st).newFault = true ∧ (j.add k st).halting = (j.halting || k.halting) := by
      rw [Judging.add, if_neg hk]
      exact ⟨rfl, rfl⟩
    refine ⟨fun i hi => by rw [Judging.hasFault_add, hkeep i hi]; rfl, ?_, ?_⟩
    · rw [he.1]
      exact iff_of_true rfl ⟨k, by simp [Judging.hasFault_add], hx⟩
    · rw [he.2, Bool.or_eq_true, hhalt]
      simp only [Judging.hasFault_add, Bool.or_eq_true, beq_iff_eq]
      constructor
      · rintro (⟨i, h1, h2, h3⟩ | h)
        · exact ⟨i, h1, .inl h2, h3⟩
        · exact ⟨k, h, .inr rfl, hx⟩
      · rintro ⟨i, h1, h2 | rfl, h3⟩
        · exact .inl ⟨i, h1, h2, h3⟩
        · exact .inr h1

theorem Judging.Tracks.addIf {x : PinContext} {j : Judging} (h : Judging.Tracks x j) (b : Bool) (k : FaultKind) (st : Nat) :
    Judging.Tracks x (j.addIf b k st) := by
  cases b
  · exact h
  · exact h.add k st

theorem Judging.Tracks.addExit {x : PinContext} {j : Judging} (h : Judging.Tracks x j) (m : Memory) (n st : Nat) :
    Judging.Tracks x (j.addExit m n st) := by
  unfold Judging.addExit
  split
  · exact h.add _ _
  · exact h

theorem Judging.Tracks.advance {x : PinContext} {j : Judging} (h : Judging.Tracks x j) (m : Memory) (n st fuel : Nat) :
    Judging.Tracks x (advanceZones m n st fuel j) := by
  induction fuel generalizing j with
  | zero => exact h
  | succ fuel ih =>
    unfold advanceZones
    split
    · exact ih ((h.addExit m n st).same rfl rfl rfl)
    · exact h

theorem Judging.Tracks.early (m : Memory) (n st : Nat) (w : Word) (x : PinContext) : Judging.Tracks x (judgeEarly m n st w x) :=
  ((((Judging.Tracks.start x).addIf _ _ _).addIf _ _ _).advance m n st 9).same rfl rfl rfl

theorem Judging.Tracks.marks {x : PinContext} {j : Judging} (h : Judging.Tracks x j) (m : Memory) (n st : Nat) (f : Counts) :
    Judging.Tracks x (j.marks m n st f) := by
  unfold Judging.marks
  dsimp only
  split
  · split
    · exact h.same rfl rfl rfl
    · exact h
  · split
    · exact h.same rfl rfl rfl
    · exact h
  all_goals exact h

theorem Judging.Tracks.tallyStage {x : PinContext} {j : Judging} (h : Judging.Tracks x j) (m : Memory) (n st : Nat) (b : Band) :
    Judging.Tracks x (j.tallyStage m n st b) := by
  unfold Judging.tallyStage
  dsimp only
  split
  · refine Judging.Tracks.addIf ?_ _ _ _
    exact h.same rfl rfl rfl
  · split
    · exact h.same rfl rfl rfl
    · exact h

/-- A judged sample's flags (R47, R50). -/
theorem Judging.Tracks.judge (m : Memory) (n st : Nat) (w : Word) (x : PinContext) :
    Judging.Tracks x (judge m n st w x).1 := by
  unfold Machine.judge
  split
  · exact ((Judging.Tracks.start x).add .cellFault st).same rfl rfl rfl
  · have he := Judging.Tracks.early m n st w x
    dsimp only
    split
    · exact (((he.marks m n st _).addIf _ _ _).tallyStage m n st _).same rfl rfl rfl
    · exact he.same rfl rfl rfl

/-! ## Stages 1 to 4 -/

/-- Stages 1 and 2: the front-end flags and the absolute limit (R31, R33, R45). -/
def judgeFlags (m : Memory) (n st : Nat) (w : Word) (x : PinContext) : Judging :=
  (Judging.addIf { ctx := x, newFault := false, mark := false, halting := false } (saturated w) .overrange st).addIf
    (decide (absoluteLimit m n < forceOf w)) .overforce st

theorem judgeFlags_hasFault (m : Memory) (n st : Nat) (w : Word) (x : PinContext) (i : FaultKind) :
    (judgeFlags m n st w x).ctx.hasFault i = (x.hasFault i || (saturated w && i == .overrange) ||
      (decide (absoluteLimit m n < forceOf w) && i == .overforce)) := by
  rw [judgeFlags, Judging.hasFault_addIf, Judging.hasFault_addIf]

/-- What stages 1 and 2 leave of a context. -/
theorem judgeFlags_keeps (m : Memory) (n st : Nat) (w : Word) (x : PinContext) :
    (judgeFlags m n st w x).ctx.tally = x.tally ∧ (judgeFlags m n st w x).ctx.zoneLatch = x.zoneLatch ∧
      (judgeFlags m n st w x).ctx.entryStep = x.entryStep ∧ (judgeFlags m n st w x).ctx.seatStep = x.seatStep ∧
      (judgeFlags m n st w x).ctx.seated = x.seated ∧ (judgeFlags m n st w x).ctx.peakForce = x.peakForce ∧
      (judgeFlags m n st w x).ctx.peakStep = x.peakStep ∧ (judgeFlags m n st w x).ctx.previousForce = x.previousForce ∧
      (judgeFlags m n st w x).ctx.samplesChecked = x.samplesChecked ∧ (judgeFlags m n st w x).mark = false ∧
      (judgeFlags m n st w x).ctx.zoneIndex = x.zoneIndex := by
  simp [judgeFlags]

/-- The pin placed in its zone (R35). -/
def Judging.placed (j : Judging) (m : Memory) (n st : Nat) : Judging :=
  { j with ctx := { j.ctx with progress := placing m n st j.ctx.zoneIndex } }

theorem judgeEarly_eq (m : Memory) (n st : Nat) (w : Word) (x : PinContext) :
    judgeEarly m n st w x = (advanceZones m n st 9 (judgeFlags m n st w x)).placed m n st := rfl

/-! ### Zone advance -/

/-- The zone is left: its exit check made, the next zone entered (R34). -/
def Judging.leaveZone (j : Judging) (m : Memory) (n st : Nat) : Judging :=
  let i := j.addExit m n st
  { i with ctx := { i.ctx with zoneIndex := i.ctx.zoneIndex + 1, tally := 0, zoneLatch := false, previousForce := none } }

theorem advanceZones_succ (m : Memory) (n st fuel : Nat) (j : Judging) : advanceZones m n st (fuel + 1) j =
    if j.ctx.zoneIndex ≤ zoneCount m n ∧ lastStep m n j.ctx.zoneIndex < st then advanceZones m n st fuel (j.leaveZone m n st) else j :=
  rfl

/-- The faults an exit check adds (R34). -/
theorem Judging.hasFault_addExit (j : Judging) (m : Memory) (n st : Nat) (i : FaultKind) :
    (j.addExit m n st).ctx.hasFault i = true ↔ j.ctx.hasFault i = true ∨
      (i = .noEntry ∧ zoneKind m n j.ctx.zoneIndex = .entry ∧ j.ctx.entryStep = none) ∨
      (i = .notSeated ∧ zoneKind m n j.ctx.zoneIndex = .seat ∧ j.ctx.seated = false) := by
  unfold Judging.addExit exitFault
  cases hk : zoneKind m n j.ctx.zoneIndex with
  | entry =>
    cases he : j.ctx.entryStep <;> simp [Judging.hasFault_add]
  | seat =>
    cases hs : j.ctx.seated <;> simp [Judging.hasFault_add]
  | travel | hold => simp

@[simp] theorem Judging.addExit_keeps (j : Judging) (m : Memory) (n st : Nat) :
    (j.addExit m n st).ctx.zoneIndex = j.ctx.zoneIndex ∧ (j.addExit m n st).ctx.entryStep = j.ctx.entryStep ∧
      (j.addExit m n st).ctx.seatStep = j.ctx.seatStep ∧ (j.addExit m n st).ctx.seated = j.ctx.seated ∧
      (j.addExit m n st).ctx.peakForce = j.ctx.peakForce ∧ (j.addExit m n st).ctx.peakStep = j.ctx.peakStep ∧
      (j.addExit m n st).ctx.samplesChecked = j.ctx.samplesChecked ∧ (j.addExit m n st).mark = j.mark := by
  unfold Judging.addExit
  split <;> simp

@[simp] theorem Judging.leaveZone_keeps (j : Judging) (m : Memory) (n st : Nat) :
    (j.leaveZone m n st).ctx.zoneIndex = j.ctx.zoneIndex + 1 ∧ (j.leaveZone m n st).ctx.entryStep = j.ctx.entryStep ∧
      (j.leaveZone m n st).ctx.seatStep = j.ctx.seatStep ∧ (j.leaveZone m n st).ctx.seated = j.ctx.seated ∧
      (j.leaveZone m n st).ctx.peakForce = j.ctx.peakForce ∧ (j.leaveZone m n st).ctx.peakStep = j.ctx.peakStep ∧
      (j.leaveZone m n st).ctx.samplesChecked = j.ctx.samplesChecked ∧ (j.leaveZone m n st).mark = j.mark := by
  simp [Judging.leaveZone]

/-- What zone advance leaves of a context. -/
@[simp] theorem advanceZones_keeps (m : Memory) (n st fuel : Nat) (j : Judging) :
    (advanceZones m n st fuel j).ctx.entryStep = j.ctx.entryStep ∧ (advanceZones m n st fuel j).ctx.seatStep = j.ctx.seatStep ∧
      (advanceZones m n st fuel j).ctx.seated = j.ctx.seated ∧ (advanceZones m n st fuel j).ctx.peakForce = j.ctx.peakForce ∧
      (advanceZones m n st fuel j).ctx.peakStep = j.ctx.peakStep ∧
      (advanceZones m n st fuel j).ctx.samplesChecked = j.ctx.samplesChecked ∧ (advanceZones m n st fuel j).mark = j.mark := by
  induction fuel generalizing j with
  | zero => exact ⟨rfl, rfl, rfl, rfl, rfl, rfl, rfl⟩
  | succ fuel ih =>
    rw [advanceZones_succ]
    split
    · simpa using ih (j.leaveZone m n st)
    · exact ⟨rfl, rfl, rfl, rfl, rfl, rfl, rfl⟩

/-- Where zone advance ends, and the zones it passes (R34). -/
theorem advanceZones_zone (m : Memory) (n st fuel : Nat) (j : Judging) :
    let r := advanceZones m n st fuel j
    j.ctx.zoneIndex ≤ r.ctx.zoneIndex ∧ (j.ctx.zoneIndex ≤ zoneCount m n + 1 → r.ctx.zoneIndex ≤ zoneCount m n + 1) ∧
      (zoneCount m n + 1 ≤ j.ctx.zoneIndex + fuel → r.ctx.zoneIndex ≤ zoneCount m n → st ≤ lastStep m n r.ctx.zoneIndex) ∧
      ∀ z, j.ctx.zoneIndex ≤ z → z < r.ctx.zoneIndex → lastStep m n z < st := by
  induction fuel generalizing j with
  | zero =>
    refine ⟨le_refl _, id, fun h h' => ?_, fun z h h' => absurd h' (not_lt.mpr h)⟩
    exact absurd (h.trans h') (by omega)
  | succ fuel ih =>
    rw [advanceZones_succ]
    split
    · next h =>
      obtain ⟨h1, h2, h3, h4⟩ := ih (j.leaveZone m n st)
      have hz : (j.leaveZone m n st).ctx.zoneIndex = j.ctx.zoneIndex + 1 := by simp
      rw [hz] at h1 h2 h3 h4
      refine ⟨by omega, fun _ => h2 (by omega), fun hf => h3 (by omega), fun z hlow hhigh => ?_⟩
      obtain rfl | hlt := Nat.eq_or_lt_of_le hlow
      · exact h.2
      · exact h4 z hlt hhigh
    · next h =>
      exact ⟨le_refl _, id, fun _ hle => by by_contra hlt; exact h ⟨hle, not_le.mp hlt⟩, fun z h h' => absurd h' (not_lt.mpr h)⟩

/-- The faults zone advance adds (R34). -/
theorem advanceZones_hasFault (m : Memory) (n st fuel : Nat) (j : Judging) (i : FaultKind) :
    let r := advanceZones m n st fuel j
    r.ctx.hasFault i = true ↔ j.ctx.hasFault i = true ∨
      (i = .noEntry ∧ j.ctx.entryStep = none ∧ ∃ z, j.ctx.zoneIndex ≤ z ∧ z < r.ctx.zoneIndex ∧ zoneKind m n z = .entry) ∨
      (i = .notSeated ∧ j.ctx.seated = false ∧ ∃ z, j.ctx.zoneIndex ≤ z ∧ z < r.ctx.zoneIndex ∧ zoneKind m n z = .seat) := by
  have hempty : ∀ (k a : Nat) (p : Nat → Prop), (∃ z, a ≤ z ∧ z < a ∧ p z) ↔ False :=
    fun _ a p => iff_of_false (fun ⟨z, h1, h2, _⟩ => absurd h2 (not_lt.mpr h1)) id
  induction fuel generalizing j with
  | zero => simp [advanceZones, hempty 0]
  | succ fuel ih =>
    rw [advanceZones_succ]
    split
    · have hz : (j.leaveZone m n st).ctx.zoneIndex = j.ctx.zoneIndex + 1 := by simp
      have hentry : (j.leaveZone m n st).ctx.entryStep = j.ctx.entryStep := by simp
      have hseated : (j.leaveZone m n st).ctx.seated = j.ctx.seated := by simp
      have hfault : (j.leaveZone m n st).ctx.hasFault i = (j.addExit m n st).ctx.hasFault i := rfl
      obtain ⟨hle, -⟩ := advanceZones_zone m n st fuel (j.leaveZone m n st)
      have hstep : ∀ (b : Nat) (p : Nat → Prop), j.ctx.zoneIndex + 1 ≤ b → ((∃ z, j.ctx.zoneIndex ≤ z ∧ z < b ∧ p z) ↔
          p j.ctx.zoneIndex ∨ ∃ z, j.ctx.zoneIndex + 1 ≤ z ∧ z < b ∧ p z) := fun b p hb => by
        constructor
        · rintro ⟨z, h1, h2, h3⟩
          obtain rfl | hlt := Nat.eq_or_lt_of_le h1
          · exact .inl h3
          · exact .inr ⟨z, hlt, h2, h3⟩
        · rintro (h | ⟨z, h1, h2, h3⟩)
          · exact ⟨_, le_refl _, hb, h⟩
          · exact ⟨z, by omega, h2, h3⟩
      rw [hz] at hle
      have := ih (j.leaveZone m n st)
      rw [hz, hentry, hseated, hfault, Judging.hasFault_addExit] at this
      refine this.trans ?_
      rw [hstep _ _ hle, hstep _ _ hle]
      simp only [and_or_left, and_left_comm, and_comm, or_assoc, or_left_comm]
    · simp [hempty 0]

/-- Zone advance that passes no zone does nothing; one that passes a zone clears what belongs to it (R34). -/
theorem advanceZones_tally (m : Memory) (n st fuel : Nat) (j : Judging) :
    let r := advanceZones m n st fuel j
    (r.ctx.zoneIndex = j.ctx.zoneIndex → r = j) ∧
      (r.ctx.zoneIndex ≠ j.ctx.zoneIndex → r.ctx.tally = 0 ∧ r.ctx.zoneLatch = false ∧ r.ctx.previousForce = none) := by
  induction fuel generalizing j with
  | zero => exact ⟨fun _ => rfl, fun h => absurd rfl h⟩
  | succ fuel ih =>
    rw [advanceZones_succ]
    split
    · obtain ⟨hle, -⟩ := advanceZones_zone m n st fuel (j.leaveZone m n st)
      obtain ⟨hsame, hpast⟩ := ih (j.leaveZone m n st)
      have hz : (j.leaveZone m n st).ctx.zoneIndex = j.ctx.zoneIndex + 1 := by simp
      refine ⟨fun h => ?_, fun _ => ?_⟩
      · rw [hz, h] at hle
        omega
      · by_cases h : (advanceZones m n st fuel (j.leaveZone m n st)).ctx.zoneIndex = (j.leaveZone m n st).ctx.zoneIndex
        · rw [hsame h]
          exact ⟨rfl, rfl, rfl⟩
        · exact hpast h
    · exact ⟨fun _ => rfl, fun h => absurd rfl h⟩

/-- A pin whose zone is not past stays in it. -/
theorem advanceZones_of_within {m : Memory} {n st : Nat} {j : Judging} (fuel : Nat)
    (h : ¬ (j.ctx.zoneIndex ≤ zoneCount m n ∧ lastStep m n j.ctx.zoneIndex < st)) : advanceZones m n st fuel j = j := by
  cases fuel with
  | zero => rfl
  | succ fuel => rw [advanceZones_succ, if_neg h]

end Sys2Proof.Machine

/-! PROOFS. The stages of an IN_ZONE sample and the last stage, and the laws of R45, R46, R34, R35 and R44 on a judged sample. -/

namespace Sys2Proof.Machine

/-! ## The marks -/

/-- The sample fixes the entry step (R37). -/
def Judging.Enters (j : Judging) (m : Memory) (n : Nat) (f : Counts) : Prop :=
  zoneKind m n j.ctx.zoneIndex = .entry ∧ j.ctx.entryStep = none ∧ floorOf m n j.ctx.zoneIndex ≤ f

/-- The sample seats the pin (R39). -/
def Judging.Seats (j : Judging) (m : Memory) (n : Nat) (f : Counts) : Prop :=
  zoneKind m n j.ctx.zoneIndex = .seat ∧ j.ctx.seated = false ∧ floorOf m n j.ctx.zoneIndex ≤ f

theorem Judging.Enters.not_seats {j : Judging} {m : Memory} {n : Nat} {f : Counts} (h : j.Enters m n f) : ¬ j.Seats m n f := fun h' => by
  have hk := h.1.symm.trans h'.1
  contradiction

theorem Judging.marks_of_enters {j : Judging} {m : Memory} {n st : Nat} {f : Counts} (h : j.Enters m n f) :
    j.marks m n st f = { j with ctx := { j.ctx with entryStep := some st }, mark := true } := by
  obtain ⟨hk, he, hf⟩ := h
  simp [Judging.marks, hk, he, hf]

theorem Judging.marks_of_seats {j : Judging} {m : Memory} {n st : Nat} {f : Counts} (h : j.Seats m n f) :
    j.marks m n st f = { j with ctx := { j.ctx with seated := true, seatStep := some st }, mark := true } := by
  obtain ⟨hk, hs, hf⟩ := h
  simp [Judging.marks, hk, hs, hf]

theorem Judging.marks_of_neither {j : Judging} {m : Memory} {n : Nat} (st : Nat) {f : Counts} (he : ¬ j.Enters m n f)
    (hs : ¬ j.Seats m n f) : j.marks m n st f = j := by
  unfold Judging.marks
  dsimp only
  split
  · next hk => exact if_neg fun h => he ⟨hk, by simpa using h.1, h.2⟩
  · next hk => exact if_neg fun h => hs ⟨hk, h⟩
  all_goals rfl

/-- What the marks leave of a context. -/
@[simp] theorem Judging.marks_keeps (j : Judging) (m : Memory) (n st : Nat) (f : Counts) :
    (j.marks m n st f).ctx.faults = j.ctx.faults ∧ (j.marks m n st f).ctx.tally = j.ctx.tally ∧
      (j.marks m n st f).ctx.zoneLatch = j.ctx.zoneLatch ∧ (j.marks m n st f).ctx.peakForce = j.ctx.peakForce ∧
      (j.marks m n st f).ctx.peakStep = j.ctx.peakStep ∧ (j.marks m n st f).ctx.previousForce = j.ctx.previousForce ∧
      (j.marks m n st f).ctx.samplesChecked = j.ctx.samplesChecked := by
  by_cases he : j.Enters m n f
  · simp [Judging.marks_of_enters he]
  by_cases hs : j.Seats m n f
  · simp [Judging.marks_of_seats hs]
  · simp [Judging.marks_of_neither st he hs]

@[simp] theorem Judging.hasFault_marks (j : Judging) (m : Memory) (n st : Nat) (f : Counts) (i : FaultKind) :
    (j.marks m n st f).ctx.hasFault i = j.ctx.hasFault i := by
  simp [PinContext.hasFault]

/-! ## The tally -/

/-- The kind a band fault has (R42). -/
def Band.fault (b : Band) : FaultKind := if b = .above then .highForce else .lowForce

/-- The excursion goes past the tolerance of a zone whose latch is clear (R42). -/
def Judging.raises (j : Judging) (m : Memory) (n : Nat) (b : Band) : Bool :=
  excursion m n j.ctx b && (decide (tolerance m n j.ctx.zoneIndex < j.ctx.tally + 1) && !j.ctx.zoneLatch)

/-- What the tally stage leaves of a context. -/
@[simp] theorem Judging.tallyStage_keeps (j : Judging) (m : Memory) (n st : Nat) (b : Band) :
    (j.tallyStage m n st b).ctx.entryStep = j.ctx.entryStep ∧ (j.tallyStage m n st b).ctx.seatStep = j.ctx.seatStep ∧
      (j.tallyStage m n st b).ctx.seated = j.ctx.seated ∧ (j.tallyStage m n st b).ctx.peakForce = j.ctx.peakForce ∧
      (j.tallyStage m n st b).ctx.peakStep = j.ctx.peakStep ∧
      (j.tallyStage m n st b).ctx.previousForce = j.ctx.previousForce ∧
      (j.tallyStage m n st b).ctx.samplesChecked = j.ctx.samplesChecked ∧ (j.tallyStage m n st b).mark = j.mark := by
  unfold Judging.tallyStage
  dsimp only
  split
  · simp
  · split <;> exact ⟨rfl, rfl, rfl, rfl, rfl, rfl, rfl, rfl⟩

theorem Judging.hasFault_tallyStage (j : Judging) (m : Memory) (n st : Nat) (b : Band) (i : FaultKind) :
    (j.tallyStage m n st b).ctx.hasFault i = (j.ctx.hasFault i || (j.raises m n b && i == b.fault)) := by
  unfold Judging.tallyStage Judging.raises
  dsimp only
  split
  · next h =>
    rw [h, Judging.hasFault_addIf, Bool.true_and]
    rfl
  · next h =>
    rw [Bool.eq_false_iff.mpr h, Bool.false_and, Bool.false_and, Bool.or_false]
    split <;> rfl

/-- An excursion raises the tally by one, up to 255, and latches the zone past its tolerance (R41, R42). -/
theorem Judging.tallyStage_of_excursion {j : Judging} {m : Memory} {n : Nat} {b : Band} (st : Nat)
    (h : excursion m n j.ctx b = true) :
    (j.tallyStage m n st b).ctx.tally = min 255 (j.ctx.tally + 1) ∧
      (j.tallyStage m n st b).ctx.zoneLatch = (j.ctx.zoneLatch || j.raises m n b) := by
  simp [Judging.tallyStage, Judging.raises, h]

/-- A sample that is no excursion lowers the tally by one in a forgiving zone when it is in the band (R43). -/
theorem Judging.tallyStage_of_no_excursion {j : Judging} {m : Memory} {n : Nat} {b : Band} (st : Nat)
    (h : excursion m n j.ctx b = false) :
    (j.tallyStage m n st b).ctx.tally = (if b = .inBand ∧ forgiving m n j.ctx.zoneIndex = true then j.ctx.tally - 1 else j.ctx.tally) ∧
      (j.tallyStage m n st b).ctx.zoneLatch = j.ctx.zoneLatch := by
  unfold Judging.tallyStage
  dsimp only
  rw [if_neg (by simp [h])]
  split <;> exact ⟨rfl, rfl⟩

/-! ## Stages 5 to 7 -/

/-- Stage 6 done: the marks made, the drop found (R37 to R40). -/
def Judging.dropStage (j : Judging) (m : Memory) (n st : Nat) (f : Counts) : Judging :=
  (j.marks m n st f).addIf (dropFound m n (j.marks m n st f).ctx f) .collapse st

theorem Judging.inZoneStages_fst (j : Judging) (m : Memory) (n st : Nat) (f : Counts) :
    (j.inZoneStages m n st f).1 = (j.dropStage m n st f).tallyStage m n st (bandOf m n j.ctx.zoneIndex f) := rfl

/-- The drop check of R40. -/
theorem dropFound_iff (m : Memory) (n : Nat) (x : PinContext) (f : Counts) : dropFound m n x f = true ↔
    (zoneKind m n x.zoneIndex = .travel ∨ zoneKind m n x.zoneIndex = .hold) ∧ (dropLimit m n).toNat ≠ 0 ∧
      ∃ p, x.previousForce = some p ∧ f.toNat + (dropLimit m n).toNat < p.toNat := by
  have hzero : dropLimit m n = 0#16 ↔ (dropLimit m n).toNat = 0 := by simp [BitVec.toNat_eq]
  cases hp : x.previousForce <;> simp [dropFound, dropZone, hp, hzero, and_assoc]

theorem dropFound_congr {m : Memory} {n : Nat} {x y : PinContext} (f : Counts) (hz : x.zoneIndex = y.zoneIndex)
    (hp : x.previousForce = y.previousForce) : dropFound m n x f = dropFound m n y f := by
  rw [dropFound, hz, hp]
  rfl

/-- What stage 6 does to a context: the marks, and the COLLAPSE fault. -/
@[simp] theorem Judging.dropStage_keeps (j : Judging) (m : Memory) (n st : Nat) (f : Counts) :
    (j.dropStage m n st f).ctx.zoneIndex = j.ctx.zoneIndex ∧ (j.dropStage m n st f).ctx.tally = j.ctx.tally ∧
      (j.dropStage m n st f).ctx.zoneLatch = j.ctx.zoneLatch ∧
      (j.dropStage m n st f).ctx.entryStep = (j.marks m n st f).ctx.entryStep ∧
      (j.dropStage m n st f).ctx.seatStep = (j.marks m n st f).ctx.seatStep ∧
      (j.dropStage m n st f).ctx.seated = (j.marks m n st f).ctx.seated ∧
      (j.dropStage m n st f).ctx.peakForce = j.ctx.peakForce ∧ (j.dropStage m n st f).ctx.peakStep = j.ctx.peakStep ∧
      (j.dropStage m n st f).ctx.previousForce = j.ctx.previousForce ∧
      (j.dropStage m n st f).ctx.samplesChecked = j.ctx.samplesChecked ∧
      (j.dropStage m n st f).mark = (j.marks m n st f).mark := by
  simp [Judging.dropStage]

@[simp] theorem Judging.dropStage_progress (j : Judging) (m : Memory) (n st : Nat) (f : Counts) :
    (j.dropStage m n st f).ctx.progress = j.ctx.progress := by
  simp [Judging.dropStage]

theorem Judging.hasFault_dropStage (j : Judging) (m : Memory) (n st : Nat) (f : Counts) (i : FaultKind) :
    (j.dropStage m n st f).ctx.hasFault i = (j.ctx.hasFault i || (dropFound m n j.ctx f && i == .collapse)) := by
  rw [Judging.dropStage, Judging.hasFault_addIf, Judging.hasFault_marks, dropFound_congr (y := j.ctx) f (by simp) (by simp)]

/-! ## The whole judgement of a closed cell -/

/-- Stages 1 to 7 of a sample of a cell that is not open. -/
def judgeStages (m : Memory) (n st : Nat) (w : Word) (x : PinContext) : Judging :=
  let e := judgeEarly m n st w x
  if e.ctx.progress = .inZone then (e.inZoneStages m n st (forceOf w)).1 else e

theorem judgeStages_of_inZone {m : Memory} {n st : Nat} {w : Word} {x : PinContext}
    (h : (judgeEarly m n st w x).ctx.progress = .inZone) :
    judgeStages m n st w x = ((judgeEarly m n st w x).inZoneStages m n st (forceOf w)).1 := if_pos h

theorem judgeStages_of_not_inZone {m : Memory} {n st : Nat} {w : Word} {x : PinContext}
    (h : (judgeEarly m n st w x).ctx.progress ≠ .inZone) : judgeStages m n st w x = judgeEarly m n st w x := if_neg h

theorem judge_fst {m : Memory} {n st : Nat} {w : Word} {x : PinContext} (hw : cellOpen w = false) :
    (judge m n st w x).1 = (judgeStages m n st w x).finish m n st (forceOf w) := by
  by_cases h : (judgeEarly m n st w x).ctx.progress = .inZone <;> simp [judge, judgeStages, hw, h]

/-- The two marks in the tag are those of the judgement (R47). -/
theorem judge_snd {m : Memory} {n st : Nat} {w : Word} {x : PinContext} (hw : cellOpen w = false) :
    (judge m n st w x).2.mark = (judge m n st w x).1.mark ∧ (judge m n st w x).2.newFault = (judge m n st w x).1.newFault := by
  by_cases h : (judgeEarly m n st w x).ctx.progress = .inZone <;> simp [judge, hw, h]

theorem judge_open {m : Memory} {n st : Nat} {w : Word} {x : PinContext} (hw : cellOpen w = true) :
    judge m n st w x = judgeOpen st x := if_pos hw

/-- The faults of a judged sample are those of its stages 1 to 7. -/
theorem hasFault_judge {m : Memory} {n st : Nat} {w : Word} {x : PinContext} (hw : cellOpen w = false) (i : FaultKind) :
    (judge m n st w x).1.ctx.hasFault i = (judgeStages m n st w x).ctx.hasFault i := by
  rw [judge_fst hw]
  rfl

/-- Stages 5 to 7 add COLLAPSE, LOW_FORCE and HIGH_FORCE only. -/
theorem hasFault_judge_early {m : Memory} {n st : Nat} {w : Word} {x : PinContext} (hw : cellOpen w = false) {i : FaultKind}
    (hc : i ≠ .collapse) (hl : i ≠ .lowForce) (hh : i ≠ .highForce) :
    (judge m n st w x).1.ctx.hasFault i = (judgeEarly m n st w x).ctx.hasFault i := by
  rw [hasFault_judge hw]
  by_cases h : (judgeEarly m n st w x).ctx.progress = .inZone
  · have hb : ∀ b : Band, (i == b.fault) = false := fun b => by
      rw [beq_eq_false_iff_ne, Band.fault]
      split <;> assumption
    simp [judgeStages_of_inZone h, Judging.inZoneStages_fst, Judging.hasFault_tallyStage, Judging.hasFault_dropStage, beq_eq_false_iff_ne.mpr hc, hb]
  · rw [judgeStages_of_not_inZone h]

@[simp] theorem Judging.placed_keeps (j : Judging) (m : Memory) (n st : Nat) :
    (j.placed m n st).ctx.zoneIndex = j.ctx.zoneIndex ∧ (j.placed m n st).ctx.tally = j.ctx.tally ∧
      (j.placed m n st).ctx.zoneLatch = j.ctx.zoneLatch ∧ (j.placed m n st).ctx.entryStep = j.ctx.entryStep ∧
      (j.placed m n st).ctx.seatStep = j.ctx.seatStep ∧ (j.placed m n st).ctx.seated = j.ctx.seated ∧
      (j.placed m n st).ctx.peakForce = j.ctx.peakForce ∧ (j.placed m n st).ctx.peakStep = j.ctx.peakStep ∧
      (j.placed m n st).ctx.previousForce = j.ctx.previousForce ∧
      (j.placed m n st).ctx.samplesChecked = j.ctx.samplesChecked ∧ (j.placed m n st).mark = j.mark :=
  ⟨rfl, rfl, rfl, rfl, rfl, rfl, rfl, rfl, rfl, rfl, rfl⟩

/-- What stages 1 to 4 leave of a context: the marks and the peak are still those of the sample before. -/
theorem judgeEarly_keeps (m : Memory) (n st : Nat) (w : Word) (x : PinContext) :
    (judgeEarly m n st w x).ctx.entryStep = x.entryStep ∧ (judgeEarly m n st w x).ctx.seatStep = x.seatStep ∧
      (judgeEarly m n st w x).ctx.seated = x.seated ∧ (judgeEarly m n st w x).ctx.peakForce = x.peakForce ∧
      (judgeEarly m n st w x).ctx.peakStep = x.peakStep ∧
      (judgeEarly m n st w x).ctx.samplesChecked = x.samplesChecked ∧ (judgeEarly m n st w x).mark = false := by
  obtain ⟨-, -, h1, h2, h3, h4, h5, -, h6, h7, -⟩ := judgeFlags_keeps m n st w x
  simp [judgeEarly_eq, h1, h2, h3, h4, h5, h6, h7]

/-- Stages 1 to 7 leave the peak and the count of samples (R44). -/
theorem judgeStages_keeps (m : Memory) (n st : Nat) (w : Word) (x : PinContext) :
    (judgeStages m n st w x).ctx.peakForce = x.peakForce ∧ (judgeStages m n st w x).ctx.peakStep = x.peakStep ∧
      (judgeStages m n st w x).ctx.samplesChecked = x.samplesChecked := by
  obtain ⟨-, -, -, hforce, hstep, hcount, -⟩ := judgeEarly_keeps m n st w x
  by_cases h : (judgeEarly m n st w x).ctx.progress = .inZone
  · simp [judgeStages_of_inZone h, Judging.inZoneStages_fst, hforce, hstep, hcount]
  · simp [judgeStages_of_not_inZone h, hforce, hstep, hcount]

/-! ## The obligations -/

/-- Settles O33. -/
theorem faultsAreAdded : Obligations.FaultsAreAdded := by
  refine ⟨fun x k st => ⟨PinContext.addFault_of_member st, fun h => ⟨fun j => PinContext.hasFault_addFault x k j st, ?_⟩⟩,
    fun m n st w x hw => ?_⟩
  · exact PinContext.addFault_of_new st h
  · rw [judge_open hw, judgeOpen]
    exact ⟨by rw [← Judging.add_ctx { ctx := x, newFault := false, mark := false, halting := false }], rfl⟩

/-- Stages 1 to 4 on the faults of the flags (R31, R33, R45). -/
theorem hasFault_judgeEarly (m : Memory) (n st : Nat) (w : Word) (x : PinContext) (i : FaultKind) :
    let y := (judgeEarly m n st w x).ctx
    y.hasFault i = true ↔ ((x.hasFault i = true ∨ (saturated w = true ∧ i = .overrange)) ∨
        ((absoluteLimit m n).toNat < (forceOf w).toNat ∧ i = .overforce)) ∨
      (i = .noEntry ∧ x.entryStep = none ∧ ∃ z, x.zoneIndex ≤ z ∧ z < y.zoneIndex ∧ zoneKind m n z = .entry) ∨
      (i = .notSeated ∧ x.seated = false ∧ ∃ z, x.zoneIndex ≤ z ∧ z < y.zoneIndex ∧ zoneKind m n z = .seat) := by
  obtain ⟨-, -, hentry, -, hseated, -, -, -, -, -, hzone⟩ := judgeFlags_keeps m n st w x
  have h := advanceZones_hasFault m n st 9 (judgeFlags m n st w x) i
  rw [hentry, hseated, hzone, judgeFlags_hasFault] at h
  simp only [Bool.or_eq_true, Bool.and_eq_true, beq_iff_eq, decide_eq_true_eq] at h
  exact h

/-- Where a pin is placed that has been advanced (R34, R35). -/
theorem placing_of_advanced {m : Memory} {n st k : Nat} (h : k ≤ zoneCount m n → st ≤ lastStep m n k) : placing m n st k =
    if zoneCount m n < k then .after else if firstStep m n k ≤ st then .inZone else if k = 1 then .before else .between := by
  unfold placing
  split
  · rfl
  · next hk => simp [h (Nat.not_lt.mp hk)]

/-- Settles O34. -/
theorem limitPeakZoneAdvanceAndPlacing : Obligations.LimitPeakZoneAdvanceAndPlacing := by
  refine ⟨fun m n st w x hw => ?_, fun m n st w x hw hcount hlow hhigh => ?_⟩
  · have hclosed : cellOpen w = false := hw
    obtain ⟨hforce, hstep, hsamples⟩ := judgeStages_keeps m n st w x
    obtain ⟨-, hnew, -⟩ := Judging.Tracks.judge m n st w x
    have hearly := fun i => hasFault_judgeEarly m n st w x i
    dsimp only at hearly ⊢
    refine ⟨?_, ?_, ?_, ?_, by rw [(judge_snd hclosed).2, hnew], ?_⟩
    · rw [hasFault_judge_early hclosed (by decide) (by decide) (by decide), hearly]
      simp [saturated]
    · rw [hasFault_judge_early hclosed (by decide) (by decide) (by decide), hearly]
      simp [forceOf, saturated]
    · rw [hasFault_judge_early hclosed (by decide) (by decide) (by decide), Bool.eq_iff_iff, hearly]
      simp
    · rw [hasFault_judge_early hclosed (by decide) (by decide) (by decide), Bool.eq_iff_iff, hearly]
      simp
    · rw [judge_fst hclosed]
      unfold Judging.finish
      dsimp only
      rw [hforce, hstep, hsamples]
      refine ⟨fun h => ?_, fun ⟨hp, hf⟩ => ?_, rfl⟩
      · have hhigher : (x.peakStep.isNone || decide (x.peakForce < forceOf w)) = true := by
          rw [Bool.or_eq_true, Option.isNone_iff_eq_none, decide_eq_true_eq]
          exact h
        rw [if_pos hhigher, if_pos hhigher]
        exact ⟨rfl, rfl⟩
      · have hlower : ¬ (x.peakStep.isNone || decide (x.peakForce < forceOf w)) = true := by
          rw [Bool.or_eq_true, Option.isNone_iff_eq_none, decide_eq_true_eq]
          exact fun h => h.elim hp (Nat.not_lt.mpr hf)
        rw [if_neg hlower, if_neg hlower]
        exact ⟨rfl, rfl⟩
  · have hclosed : cellOpen w = false := hw
    obtain ⟨hzone, hprogress⟩ := judge_place (m := m) (n := n) (st := st) (x := x) hclosed
    have hearly := fun i => hasFault_judgeEarly m n st w x i
    obtain ⟨h1, h2, h3, h4⟩ := advanceZones_zone m n st 9 (judgeFlags m n st w x)
    obtain ⟨-, -, -, -, -, -, -, -, -, -, hz⟩ := judgeFlags_keeps m n st w x
    rw [hz] at h1 h2 h3 h4
    have hwithin := h3 (by omega)
    dsimp only at hearly ⊢
    rw [hzone, hprogress, hasFault_judge_early hclosed (by decide) (by decide) (by decide),
      hasFault_judge_early hclosed (by decide) (by decide) (by decide), hearly, hearly]
    refine ⟨h1, h2 hhigh, hwithin, h4, by simp, by simp, placing_of_advanced hwithin⟩

end Sys2Proof.Machine

/-! PROOFS. The zone kinds: the marks, the drop check and the tally of a judged sample (R36 to R43, R47). -/

namespace Sys2Proof.Machine

/-! ## A sample of a cell that is not open -/

/-- Stages 1 to 4 of a sample within the pin's zone: the pin stays there and is IN_ZONE. -/
theorem judgeEarly_of_within {m : Memory} {n st : Nat} (w : Word) {x : PinContext} (hz : x.zoneIndex ≤ zoneCount m n)
    (hfirst : firstStep m n x.zoneIndex ≤ st) (hlast : st ≤ lastStep m n x.zoneIndex) :
    (judgeEarly m n st w x).ctx.zoneIndex = x.zoneIndex ∧ (judgeEarly m n st w x).ctx.progress = .inZone := by
  obtain ⟨-, -, -, -, -, -, -, -, -, -, hzone⟩ := judgeFlags_keeps m n st w x
  have hadv : advanceZones m n st 9 (judgeFlags m n st w x) = judgeFlags m n st w x :=
    advanceZones_of_within 9 (by rw [hzone]; omega)
  rw [judgeEarly_eq, hadv]
  refine ⟨hzone, ?_⟩
  simp [Judging.placed, hzone, placing, Nat.not_lt.mpr hz, hfirst, hlast]

/-- What belongs to a zone is kept while the pin stays in it, and cleared when it leaves it (R34). -/
theorem judgeEarly_zone (m : Memory) (n st : Nat) (w : Word) (x : PinContext) :
    let e := (judgeEarly m n st w x).ctx
    (e.zoneIndex = x.zoneIndex → e.tally = x.tally ∧ e.zoneLatch = x.zoneLatch ∧ e.previousForce = x.previousForce) ∧
      (e.zoneIndex ≠ x.zoneIndex → e.tally = 0 ∧ e.zoneLatch = false ∧ e.previousForce = none) := by
  obtain ⟨htally, hlatch, -, -, -, -, -, hprev, -, -, hzone⟩ := judgeFlags_keeps m n st w x
  obtain ⟨hsame, hpast⟩ := advanceZones_tally m n st 9 (judgeFlags m n st w x)
  rw [hzone] at hsame hpast
  refine ⟨fun h => ?_, hpast⟩
  rw [judgeEarly_eq, hsame h]
  exact ⟨htally, hlatch, hprev⟩

/-- A sample outside a zone leaves all that stages 5 to 7 decide. -/
theorem judge_outside {m : Memory} {n st : Nat} {w : Word} {x : PinContext} (hw : cellOpen w = false)
    (h : (judgeEarly m n st w x).ctx.progress ≠ .inZone) :
    let r := judge m n st w x
    let y := r.1.ctx
    y.entryStep = x.entryStep ∧ y.seated = x.seated ∧ y.seatStep = x.seatStep ∧ r.2.mark = false ∧
      y.tally = (judgeEarly m n st w x).ctx.tally ∧ y.zoneLatch = (judgeEarly m n st w x).ctx.zoneLatch ∧
      y.previousForce = (judgeEarly m n st w x).ctx.previousForce := by
  obtain ⟨hentry, hseat, hseated, -, -, -, hmark⟩ := judgeEarly_keeps m n st w x
  dsimp only
  rw [(judge_snd hw).1, judge_fst hw, judgeStages_of_not_inZone h, ← hentry, ← hseat, ← hseated, ← hmark]
  exact ⟨rfl, rfl, rfl, rfl, rfl, rfl, if_neg fun h' => h h'.1⟩

/-- What stages 5 to 8 make of a sample in a zone. -/
theorem judge_inside {m : Memory} {n st : Nat} {w : Word} {x : PinContext} (hw : cellOpen w = false)
    (h : (judgeEarly m n st w x).ctx.progress = .inZone) :
    let e := judgeEarly m n st w x
    let a := e.marks m n st (forceOf w)
    let t := (e.dropStage m n st (forceOf w)).tallyStage m n st (bandOf m n e.ctx.zoneIndex (forceOf w))
    let r := judge m n st w x
    let y := r.1.ctx
    y.entryStep = a.ctx.entryStep ∧ y.seated = a.ctx.seated ∧ y.seatStep = a.ctx.seatStep ∧ r.2.mark = a.mark ∧
      y.tally = t.ctx.tally ∧ y.zoneLatch = t.ctx.zoneLatch ∧ (∀ i, y.hasFault i = t.ctx.hasFault i) ∧
      y.previousForce = if dropZone m n e.ctx.zoneIndex = true then some (forceOf w) else e.ctx.previousForce := by
  dsimp only
  rw [(judge_snd hw).1, judge_fst hw, judgeStages_of_inZone h, Judging.inZoneStages_fst]
  simp [Judging.finish, PinContext.hasFault, h]

/-- The band of a sample in a zone is that of its force (R36, R47). -/
theorem judge_band {m : Memory} {n st : Nat} {w : Word} {x : PinContext} (hw : cellOpen w = false)
    (h : (judgeEarly m n st w x).ctx.progress = .inZone) :
    (judge m n st w x).2.band = bandOf m n (judgeEarly m n st w x).ctx.zoneIndex (forceOf w) := by
  obtain ⟨hzone, hprogress⟩ := judge_place (m := m) (n := n) (st := st) (x := x) hw
  rw [((judge_tag hw).1 (hprogress.trans h)).2, hzone]

/-- A judged sample of an open cell leaves all but the faults and the progress (R31). -/
theorem judge_open_keeps (m : Memory) (n st : Nat) {w : Word} (x : PinContext) (hw : cellOpen w = true) :
    let r := judge m n st w x
    let y := r.1.ctx
    y.entryStep = x.entryStep ∧ y.seated = x.seated ∧ y.seatStep = x.seatStep ∧ r.2.mark = false ∧ y.tally = x.tally ∧
      y.zoneLatch = x.zoneLatch ∧ y.previousForce = x.previousForce ∧ y.progress = .frozen ∧
      ∀ i, y.hasFault i = (x.hasFault i || i == .cellFault) := by
  dsimp only
  rw [judge_open hw]
  have hfault : ∀ i, (judgeOpen st x).1.ctx.hasFault i =
      (Judging.add { ctx := x, newFault := false, mark := false, halting := false } .cellFault st).ctx.hasFault i := fun i => rfl
  simp [hfault, Judging.hasFault_add]
  simp [judgeOpen]

/-! ## The marks -/

/-- The conditions of a mark: the sample is IN_ZONE in a zone of the kind, at or above its floor (R37, R39). -/
def PinContext.Reaches (y : PinContext) (m : Memory) (n : Nat) (f : Counts) (kind : ZoneKind) : Prop :=
  y.progress = .inZone ∧ zoneKind m n y.zoneIndex = kind ∧ floorOf m n y.zoneIndex ≤ f

/-- A sample of force f at a step fixes the entry step, or it seats the pin, or it makes no mark (R37, R39, R47). -/
def PinContext.Marked (x y : PinContext) (m : Memory) (n st : Nat) (f : Counts) (mark : Bool) : Prop :=
  (x.entryStep = none ∧ y.Reaches m n f .entry ∧ y.entryStep = some st ∧ y.seated = x.seated ∧
    y.seatStep = x.seatStep ∧ mark = true) ∨
  (x.seated = false ∧ y.Reaches m n f .seat ∧ y.entryStep = x.entryStep ∧ y.seated = true ∧
    y.seatStep = some st ∧ mark = true) ∨
  (¬ (x.entryStep = none ∧ y.Reaches m n f .entry) ∧ ¬ (x.seated = false ∧ y.Reaches m n f .seat) ∧
    y.entryStep = x.entryStep ∧ y.seated = x.seated ∧ y.seatStep = x.seatStep ∧ mark = false)

theorem PinContext.Reaches.kind_eq {y : PinContext} {m : Memory} {n : Nat} {f : Counts} {a b : ZoneKind} (ha : y.Reaches m n f a)
    (hb : y.Reaches m n f b) : a = b :=
  ha.2.1.symm.trans hb.2.1

theorem judge_marked (m : Memory) (n st : Nat) (w : Word) (x : PinContext) :
    x.Marked (judge m n st w x).1.ctx m n st (forceOf w) (judge m n st w x).2.mark := by
  unfold PinContext.Marked
  cases hw : cellOpen w with
  | true =>
    obtain ⟨h1, h2, h3, h4, -, -, -, hfrozen, -⟩ := judge_open_keeps m n st x hw
    refine .inr (.inr ⟨fun h => ?_, fun h => ?_, h1, h2, h3, h4⟩)
    · exact absurd (hfrozen.symm.trans h.2.1) (by decide)
    · exact absurd (hfrozen.symm.trans h.2.1) (by decide)
  | false =>
    obtain ⟨hzone, hprogress⟩ := judge_place (m := m) (n := n) (st := st) (x := x) hw
    simp only [PinContext.Reaches, hzone, hprogress]
    by_cases hin : (judgeEarly m n st w x).ctx.progress = .inZone
    · obtain ⟨h1, h2, h3, h4, -⟩ := judge_inside hw hin
      obtain ⟨hentry, hseat, hseated, -, -, -, hmark⟩ := judgeEarly_keeps m n st w x
      rw [h1, h2, h3, h4]
      by_cases he : (judgeEarly m n st w x).Enters m n (forceOf w)
      · rw [Judging.marks_of_enters he]
        obtain ⟨hk, hnone, hf⟩ := he
        exact .inl ⟨hentry ▸ hnone, ⟨hin, hk, hf⟩, rfl, hseated, hseat, rfl⟩
      by_cases hs : (judgeEarly m n st w x).Seats m n (forceOf w)
      · rw [Judging.marks_of_seats hs]
        obtain ⟨hk, hnot, hf⟩ := hs
        exact .inr (.inl ⟨hseated ▸ hnot, ⟨hin, hk, hf⟩, hentry, rfl, rfl, rfl⟩)
      · rw [Judging.marks_of_neither st he hs]
        refine .inr (.inr ⟨fun h => he ?_, fun h => hs ?_, hentry, hseated, hseat, hmark⟩)
        · exact ⟨h.2.2.1, hentry.trans h.1, h.2.2.2⟩
        · exact ⟨h.2.2.1, hseated.trans h.1, h.2.2.2⟩
    · obtain ⟨h1, h2, h3, h4, -⟩ := judge_outside hw hin
      exact .inr (.inr ⟨fun h => hin h.2.1, fun h => hin h.2.1, h1, h2, h3, h4⟩)

section
variable {x y : PinContext} {m : Memory} {n st : Nat} {f : Counts} {mark : Bool}

theorem PinContext.Marked.entry (h : x.Marked y m n st f mark) (he : x.entryStep = none) (hr : y.Reaches m n f .entry) :
    y.entryStep = some st ∧ mark = true := by
  obtain ⟨-, -, h1, -, -, h2⟩ | ⟨-, hr', -⟩ | ⟨hnot, -⟩ := h
  · exact ⟨h1, h2⟩
  · exact absurd (hr.kind_eq hr') (by decide)
  · exact absurd ⟨he, hr⟩ hnot

theorem PinContext.Marked.seat (h : x.Marked y m n st f mark) (hs : x.seated = false) (hr : y.Reaches m n f .seat) :
    y.seated = true ∧ y.seatStep = some st ∧ mark = true := by
  obtain ⟨-, hr', -⟩ | ⟨-, -, -, h1, h2, h3⟩ | ⟨-, hnot, -⟩ := h
  · exact absurd (hr.kind_eq hr') (by decide)
  · exact ⟨h1, h2, h3⟩
  · exact absurd ⟨hs, hr⟩ hnot

theorem PinContext.Marked.none (h : x.Marked y m n st f mark) (he : ¬ y.Reaches m n f .entry) (hs : ¬ y.Reaches m n f .seat) :
    y.entryStep = x.entryStep ∧ y.seated = x.seated ∧ y.seatStep = x.seatStep ∧ mark = false := by
  obtain ⟨-, hr, -⟩ | ⟨-, hr, -⟩ | ⟨-, -, h⟩ := h
  · exact absurd hr he
  · exact absurd hr hs
  · exact h

theorem PinContext.Marked.entryStep_eq (h : x.Marked y m n st f mark) (he : ¬ y.Reaches m n f .entry) :
    y.entryStep = x.entryStep := by
  obtain ⟨-, hr, -⟩ | ⟨-, -, h, -⟩ | ⟨-, -, h, -⟩ := h
  · exact absurd hr he
  · exact h
  · exact h

theorem PinContext.Marked.seated_eq (h : x.Marked y m n st f mark) (hs : ¬ y.Reaches m n f .seat) :
    y.seated = x.seated ∧ y.seatStep = x.seatStep := by
  obtain ⟨-, -, -, h1, h2, -⟩ | ⟨-, hr, -⟩ | ⟨-, -, -, h1, h2, -⟩ := h
  · exact ⟨h1, h2⟩
  · exact absurd hr hs
  · exact ⟨h1, h2⟩

/-- A fixed entry step and a seat stay as they are (R37, R39). -/
theorem PinContext.Marked.stays (h : x.Marked y m n st f mark) :
    (x.entryStep ≠ .none → y.entryStep = x.entryStep) ∧
      (x.seated = true → y.seated = true ∧ y.seatStep = x.seatStep) := by
  obtain ⟨hn, -, -, h1, h2, -⟩ | ⟨hn, -, h1, -⟩ | ⟨-, -, h1, h2, h3, -⟩ := h
  · exact ⟨fun h => absurd hn h, fun h => ⟨h1.trans h, h2⟩⟩
  · exact ⟨fun _ => h1, fun h => by simp [h] at hn⟩
  · exact ⟨fun _ => h1, fun h => ⟨h2.trans h, h3⟩⟩

/-- A mark is the entry step fixed or the pin seated (R47). -/
theorem PinContext.Marked.mark_iff (h : x.Marked y m n st f mark) :
    mark = true ↔ (x.entryStep = .none ∧ y.entryStep ≠ .none) ∨ (x.seated = false ∧ y.seated = true) := by
  obtain ⟨hn, -, h1, -, -, rfl⟩ | ⟨hn, -, -, h1, -, rfl⟩ | ⟨-, -, h1, h2, -, rfl⟩ := h
  · simp [hn, h1]
  · simp [hn, h1]
  · cases hs : x.seated <;> simp [h1, h2, hs]

theorem PinContext.Marked.entryStep_iff (h : x.Marked y m n st f mark) (he : x.entryStep = .none) :
    (y.entryStep ≠ .none ↔ y.Reaches m n f .entry) ∧ (y.entryStep ≠ .none → y.entryStep = some st) := by
  by_cases hr : y.Reaches m n f .entry
  · simp [(h.entry he hr).1, hr]
  · simp [h.entryStep_eq hr, he, hr]

theorem PinContext.Marked.seated_iff (h : x.Marked y m n st f mark) (hs : x.seated = false) :
    (y.seated = true ↔ y.Reaches m n f .seat) ∧ y.seatStep = if y.seated then some st else x.seatStep := by
  by_cases hr : y.Reaches m n f .seat
  · obtain ⟨h1, h2, -⟩ := h.seat hs hr
    simp [h1, h2, hr]
  · obtain ⟨h1, h2⟩ := h.seated_eq hr
    simp [h1, h2, hs, hr]

end

/-! ## COLLAPSE -/

/-- COLLAPSE is added by the drop check alone, in the zone in which the previous force was taken (R40). -/
theorem judge_collapse_iff (m : Memory) (n st : Nat) {w : Word} (x : PinContext) (hw : cellOpen w = false) :
    let y := (judge m n st w x).1.ctx
    y.hasFault .collapse = true ↔ x.hasFault .collapse = true ∨
      (y.progress = .inZone ∧ y.zoneIndex = x.zoneIndex ∧ dropFound m n x (forceOf w) = true) := by
  dsimp only
  obtain ⟨hzone, hprogress⟩ := judge_place (m := m) (n := n) (st := st) (x := x) hw
  obtain ⟨hstays, hleaves⟩ := judgeEarly_zone m n st w x
  have hearly : (judgeEarly m n st w x).ctx.hasFault .collapse = true ↔ x.hasFault .collapse = true := by
    simpa using hasFault_judgeEarly m n st w x .collapse
  have hdrop : dropFound m n (judgeEarly m n st w x).ctx (forceOf w) = true ↔
      (judgeEarly m n st w x).ctx.zoneIndex = x.zoneIndex ∧ dropFound m n x (forceOf w) = true := by
    by_cases h : (judgeEarly m n st w x).ctx.zoneIndex = x.zoneIndex
    · rw [dropFound_congr _ h (hstays h).2.2]
      simp [h]
    · simp [dropFound_iff, (hleaves h).2.2, h]
  rw [hzone, hprogress]
  by_cases hin : (judgeEarly m n st w x).ctx.progress = .inZone
  · obtain ⟨-, -, -, -, -, -, hfault, -⟩ := judge_inside hw hin
    have hband : ∀ b : Band, (FaultKind.collapse == b.fault) = false := fun b => by cases b <;> rfl
    rw [hfault, Judging.hasFault_tallyStage, Judging.hasFault_dropStage, hband]
    simp [hearly, hdrop, hin]
  · rw [hasFault_judge hw, judgeStages_of_not_inZone hin, hearly]
    simp [hin]

/-! ## The tally -/

/-- A sample below the band does not reach the floor, so it makes no mark: the excursion is decided by the entry step from before. -/
theorem Judging.excursion_dropStage (j : Judging) (m : Memory) (n st : Nat) (f : Counts) :
    excursion m n (j.dropStage m n st f).ctx (bandOf m n j.ctx.zoneIndex f) =
      excursion m n j.ctx (bandOf m n j.ctx.zoneIndex f) := by
  cases hb : bandOf m n j.ctx.zoneIndex f with
  | below =>
    have hlow : f < floorOf m n j.ctx.zoneIndex := by
      unfold bandOf at hb
      by_contra h
      rw [if_neg h] at hb
      split at hb <;> contradiction
    have hnot : ¬ floorOf m n j.ctx.zoneIndex ≤ f := BitVec.not_le.mpr hlow
    have hmarks : j.marks m n st f = j := Judging.marks_of_neither st (fun h => hnot h.2.2) (fun h => hnot h.2.2)
    simp [excursion, hmarks]
  | above | inBand | notChecked => rfl

theorem excursion_congr {m : Memory} {n : Nat} {x y : PinContext} (b : Band) (hz : x.zoneIndex = y.zoneIndex)
    (he : x.entryStep = y.entryStep) : excursion m n x b = excursion m n y b := by
  cases b <;> simp [excursion, hz, he]

theorem Judging.raises_iff (j : Judging) (m : Memory) (n : Nat) (b : Band) : j.raises m n b = true ↔
    excursion m n j.ctx b = true ∧ tolerance m n j.ctx.zoneIndex < j.ctx.tally + 1 ∧ j.ctx.zoneLatch = false := by
  simp only [Judging.raises, Bool.and_eq_true, decide_eq_true_eq, Bool.not_eq_true']

theorem Judging.tallyStage_latched {j : Judging} {m : Memory} {n : Nat} {b : Band} (st : Nat) (h : j.raises m n b = true) :
    (j.tallyStage m n st b).ctx.zoneLatch = true := by
  rw [(Judging.tallyStage_of_excursion st ((j.raises_iff m n b).mp h).1).2, h, Bool.or_true]

/-- An excursion lies above the band, or below it in a zone that has a floor to keep (R37 to R39). -/
theorem excursion_cases {m : Memory} {n : Nat} {x : PinContext} {b : Band} (h : excursion m n x b = true) :
    b = .above ∨ (b = .below ∧ zoneKind m n x.zoneIndex ≠ .seat ∧ (zoneKind m n x.zoneIndex = .entry → x.entryStep ≠ none)) := by
  cases b with
  | above => exact .inl rfl
  | below =>
    refine .inr ⟨rfl, fun hk => ?_, fun hk => ?_⟩
    · simp [excursion, hk] at h
    · simp only [excursion, hk] at h
      exact Option.isSome_iff_ne_none.mp h
  | inBand | notChecked => contradiction

/-- The excursion of a judged sample (R37 to R39). -/
theorem judge_excursion {m : Memory} {n st : Nat} {w : Word} {x : PinContext} :
    let e := judgeEarly m n st w x
    excursion m n (e.dropStage m n st (forceOf w)).ctx (bandOf m n e.ctx.zoneIndex (forceOf w)) =
      excursion m n { x with zoneIndex := e.ctx.zoneIndex } (bandOf m n e.ctx.zoneIndex (forceOf w)) := by
  obtain ⟨hentry, -⟩ := judgeEarly_keeps m n st w x
  dsimp only
  rw [Judging.excursion_dropStage]
  exact excursion_congr _ rfl hentry

/-- A band fault that a judged sample adds: the sample is in a zone, an excursion past the tolerance while the latch was clear (R42). -/
theorem judge_band_fault {m : Memory} {n st : Nat} {w : Word} {x : PinContext} {k : FaultKind}
    (hk : k = .lowForce ∨ k = .highForce) (hy : (judge m n st w x).1.ctx.hasFault k = true) (hx : x.hasFault k = false) :
    cellOpen w = false ∧ (judgeEarly m n st w x).ctx.progress = .inZone ∧
      ((judgeEarly m n st w x).dropStage m n st (forceOf w)).raises m n
        (bandOf m n (judgeEarly m n st w x).ctx.zoneIndex (forceOf w)) = true ∧
      k = (bandOf m n (judgeEarly m n st w x).ctx.zoneIndex (forceOf w)).fault := by
  have hcell : (k == .cellFault) = false := by rcases hk with rfl | rfl <;> rfl
  have hcollapse : (k == .collapse) = false := by rcases hk with rfl | rfl <;> rfl
  have hearly : (judgeEarly m n st w x).ctx.hasFault k = false := by
    have h := hasFault_judgeEarly m n st w x k
    rcases hk with rfl | rfl <;> simpa [hx] using h
  cases hw : cellOpen w with
  | true =>
    obtain ⟨-, -, -, -, -, -, -, -, hfault⟩ := judge_open_keeps m n st x hw
    rw [hfault, hx, hcell] at hy
    contradiction
  | false =>
    by_cases hin : (judgeEarly m n st w x).ctx.progress = .inZone
    · obtain ⟨-, -, -, -, -, -, hfault, -⟩ := judge_inside hw hin
      rw [hfault, Judging.hasFault_tallyStage, Judging.hasFault_dropStage, hearly, hcollapse] at hy
      simp only [Bool.and_false, Bool.or_false, Bool.false_or, Bool.and_eq_true, beq_iff_eq] at hy
      exact ⟨rfl, hin, hy⟩
    · rw [hasFault_judge hw, judgeStages_of_not_inZone hin, hearly] at hy
      contradiction

/-! ## The obligation -/

/-- Settles O36. -/
theorem zoneKindsAndTally : Obligations.ZoneKindsAndTally := by
  refine ⟨fun m n st w x hw => ?_, fun m n st w x hw => ?_, fun m n st w x => ?_⟩
  · have hclosed : cellOpen w = false := hw
    intro k hz hfirst hlast force r y
    obtain ⟨hzone, hprogress⟩ := judgeEarly_of_within w hz hfirst hlast
    obtain ⟨-, -, hprev⟩ := (judgeEarly_zone m n st w x).1 hzone
    obtain ⟨hyzone, hyprogress⟩ := judge_place (m := m) (n := n) (st := st) (x := x) hclosed
    obtain ⟨-, -, -, -, -, -, -, hforce⟩ := judge_inside hclosed hprogress
    have hmarks : x.Marked y m n st force r.2.mark := judge_marked m n st w x
    have hreaches : ∀ kind, y.Reaches m n force kind ↔ zoneKind m n k = kind ∧ (floorOf m n k).toNat ≤ force.toNat := fun kind => by
      have hk : y.zoneIndex = k := hyzone.trans hzone
      have hp : y.progress = .inZone := hyprogress.trans hprogress
      simp [PinContext.Reaches, hk, hp, BitVec.le_def]
    refine ⟨fun hk he hf => ?_, fun hk hf => ?_, fun hk hs hf => ?_, fun hk hf => ?_, fun hk => ?_, fun hk => ?_, fun hk => ⟨?_, ?_, ?_⟩⟩
    · exact hmarks.entry he ((hreaches _).mpr ⟨hk, hf⟩)
    · obtain ⟨h1, -, -, h2⟩ := hmarks.none (fun h => absurd ((hreaches _).mp h).2 (Nat.not_le.mpr hf))
        (fun h => absurd ((hreaches _).mp h).2 (Nat.not_le.mpr hf))
      exact ⟨h1, h2⟩
    · exact hmarks.seat hs ((hreaches _).mpr ⟨hk, hf⟩)
    · obtain ⟨-, h1, h2, h3⟩ := hmarks.none (fun h => absurd ((hreaches _).mp h).2 (Nat.not_le.mpr hf))
        (fun h => absurd ((hreaches _).mp h).2 (Nat.not_le.mpr hf))
      exact ⟨h1, h2, h3⟩
    · exact hmarks.entryStep_eq fun h => hk ((hreaches _).mp h).1
    · exact hmarks.seated_eq fun h => hk ((hreaches _).mp h).1
    · rw [hforce, hzone, if_pos (by simpa [dropZone] using hk)]
      rfl
    · refine (hmarks.none (fun h => ?_) (fun h => ?_)).2.2.2
      · have := ((hreaches _).mp h).1
        rcases hk with hk | hk <;> exact absurd (hk.symm.trans this) (by decide)
      · have := ((hreaches _).mp h).1
        rcases hk with hk | hk <;> exact absurd (hk.symm.trans this) (by decide)
    · have := judge_collapse_iff m n st x hclosed
      refine this.trans ?_
      simp only [dropFound_iff, hyzone, hyprogress, hzone, hprogress, true_and]
      exact or_congr_right (and_iff_right hk)
  · have hclosed : cellOpen w = false := hw
    intro k hz hfirst hlast r y exc
    obtain ⟨hzone, hprogress⟩ := judgeEarly_of_within w hz hfirst hlast
    obtain ⟨htally, hlatch, -⟩ := (judgeEarly_zone m n st w x).1 hzone
    obtain ⟨-, -, -, -, hytally, hylatch, hyfault, -⟩ := judge_inside hclosed hprogress
    have hband := judge_band hclosed hprogress
    have hexc : exc = excursion m n { x with zoneIndex := (judgeEarly m n st w x).ctx.zoneIndex } r.2.band := by
      rw [hzone]
      cases hb : r.2.band <;> simp only [exc, hb] <;> rfl
    rw [hband] at hexc
    rw [← judge_excursion] at hexc
    have hraises : ((judgeEarly m n st w x).dropStage m n st (forceOf w)).raises m n
        (bandOf m n (judgeEarly m n st w x).ctx.zoneIndex (forceOf w)) =
        (exc && (decide (tolerance m n k < x.tally + 1) && !x.zoneLatch)) := by
      rw [Judging.raises, ← hexc]
      simp only [Judging.dropStage_keeps, htally, hlatch, hzone]
      rfl
    refine ⟨fun he => ?_, fun he => ?_⟩
    · obtain ⟨h1, h2⟩ := Judging.tallyStage_of_excursion st (hexc.symm.trans he)
      simp only [Judging.dropStage_keeps, htally, hlatch] at h1 h2
      rw [hraises, he, Bool.true_and] at h2
      refine ⟨hytally.trans h1, fun hpast hclear => ⟨hylatch.trans (h2.trans ?_), ?_⟩, fun hwithin => hylatch.trans (h2.trans ?_)⟩
      · simp [hpast, hclear]
      · rw [hyfault, Judging.hasFault_tallyStage, hraises, hband]
        simp [Band.fault, he, hpast, hclear]
      · simp [Nat.not_lt.mpr hwithin]
    · obtain ⟨h1, h2⟩ := Judging.tallyStage_of_no_excursion st (hexc.symm.trans he)
      simp only [Judging.dropStage_keeps, htally, hlatch] at h1 h2
      refine ⟨hylatch.trans h2, hytally.trans (h1.trans ?_)⟩
      rw [hband, hzone]
  · intro r y stays force reaches
    have hmarks : x.Marked y m n st force r.2.mark := judge_marked m n st w x
    refine ⟨fun he => ?_, fun hs => ?_, fun hout => ?_, hmarks.stays.1, hmarks.stays.2, hmarks.mark_iff, ?_, ?_⟩
    · exact hmarks.entryStep_iff he
    · exact hmarks.seated_iff hs
    · obtain ⟨h1, h2, h3, h4⟩ := hmarks.none (fun h => hout h.1) (fun h => hout h.1)
      refine ⟨h1, h2, h3, h4, fun hstays => ?_⟩
      cases hw : cellOpen w with
      | true =>
        obtain ⟨-, -, -, -, h5, h6, h7, -⟩ := judge_open_keeps m n st x hw
        exact ⟨h5, h6, h7⟩
      | false =>
        obtain ⟨hyzone, hyprogress⟩ := judge_place (m := m) (n := n) (st := st) (x := x) hw
        obtain ⟨-, -, -, -, h5, h6, h7⟩ := judge_outside hw (hyprogress ▸ hout)
        obtain ⟨h8, h9, h10⟩ := (judgeEarly_zone m n st w x).1 (hyzone.symm.trans hstays)
        exact ⟨h5.trans h8, h6.trans h9, h7.trans h10⟩
    · cases hw : cellOpen w with
      | true =>
        obtain ⟨-, -, -, -, -, -, -, -, hfault⟩ := judge_open_keeps m n st x hw
        intro h
        rw [hfault] at h
        exact .inl (by simpa using h)
      | false =>
        intro h
        refine ((judge_collapse_iff m n st x hw).mp h).imp_right fun ⟨hin, hstays, hdrop⟩ => ?_
        refine ⟨hstays, hin, ?_⟩
        rw [show y.zoneIndex = x.zoneIndex from hstays]
        exact ((dropFound_iff _ _ _ _).mp hdrop).1
    · intro k hk hy hx
      obtain ⟨hw, hin, hraises, hkband⟩ := judge_band_fault hk hy hx
      obtain ⟨hyzone, hyprogress⟩ := judge_place (m := m) (n := n) (st := st) (x := x) hw
      obtain ⟨-, -, -, -, -, hylatch, -⟩ := judge_inside hw hin
      obtain ⟨hstays, hleaves⟩ := judgeEarly_zone m n st w x
      have hband := judge_band hw hin
      have htallied := Judging.tallyStage_latched st hraises
      have hlatched : y.zoneLatch = true := hylatch.trans htallied
      obtain ⟨hexc, htally, hlatch⟩ := (Judging.raises_iff _ _ _ _).mp hraises
      simp only [Judging.dropStage_keeps] at htally hlatch
      rw [judge_excursion, ← hyzone] at hexc
      rw [← hyzone] at hkband hband htally
      refine ⟨?_, hlatched, fun h => (hstays (hyzone.symm.trans h)).2.1 ▸ hlatch, ?_, fun hlow => ?_⟩
      · refine hband.trans ?_
        obtain hb | ⟨hb, -⟩ := excursion_cases hexc <;> rw [hkband, hb] <;> rfl
      · by_cases h : stays
        · rw [if_pos h, ← (hstays (hyzone.symm.trans h)).1]
          exact htally
        · rw [if_neg h, ← (hleaves (fun h' => h (hyzone.trans h'))).1]
          exact htally
      · obtain hb | ⟨-, hkind⟩ := excursion_cases hexc
        · rw [hkband, hb] at hlow
          contradiction
        · exact hkind

end Sys2Proof.Machine

/-! PROOFS. The counts and the halting conditions after a presented beat (R49 to R52). -/

namespace Sys2Proof.Machine

/-- The beat of a used pin that is not FROZEN is judged, in an unhalted burst (R30, R32). -/
theorem State.presentBeat_judged {s : State} {c : Nat} (st : Nat) (w : Word) (hu : (s.pin c).health ≠ .unused)
    (hf : (s.pin c).progress ≠ .frozen) :
    let j := judge s.recipe.shadow (pinProfile s.recipe.shadow c) st w (s.pin c)
    let t := s.putPin c j.1.ctx
    s.presentBeat c st w false =
      (j.2, s.haltingScope && (s.faultCondition c j.1 || t.thresholdCondition s.checker.totalFailing), t) := by
  simp [State.presentBeat, hu, hf]

/-- A cell that is not UNUSED is one of the tool's. -/
theorem State.cell_lt_of_used {s : State} {c : Nat} (h : (s.pin c).health ≠ .unused) : c < 1024 := by
  by_contra hc
  exact h (by simp [State.pin, Vector.getD, hc, PinContext.cleared])

theorem FaultKind.halting_iff (k : FaultKind) : k.halting = true ↔ k = .collapse ∨ k = .overforce := by
  cases k <;> decide

/-- The halting condition of R50 on a judged sample. -/
theorem State.faultCondition_judge (s : State) (c st : Nat) (w : Word) :
    let j := (judge s.recipe.shadow (pinProfile s.recipe.shadow c) st w (s.pin c)).1
    s.faultCondition c j = true ↔
      ∃ n, slotOf s.recipe.shadow s.stroke.latched c = some n ∧ haltOnHalting s.recipe.shadow n = true ∧
        ∃ k : FaultKind, (k = .collapse ∨ k = .overforce) ∧ (s.pin c).hasFault k = false ∧ j.ctx.hasFault k = true := by
  obtain ⟨-, -, hhalt⟩ := Judging.Tracks.judge s.recipe.shadow (pinProfile s.recipe.shadow c) st w (s.pin c)
  dsimp only
  rw [State.faultCondition, Bool.and_eq_true, hhalt]
  simp only [FaultKind.halting_iff]
  cases slotOf s.recipe.shadow s.stroke.latched c with
  | none => simp
  | some n =>
    constructor
    · rintro ⟨⟨k, h1, h2, h3⟩, h4⟩
      exact ⟨n, rfl, h4, k, h1, h3, h2⟩
    · rintro ⟨i, hi, h4, k, h1, h3, h2⟩
      obtain rfl := Option.some.inj hi
      exact ⟨⟨k, h1, h2, h3⟩, h4⟩

/-- The halting condition of R51. -/
theorem State.thresholdCondition_iff (s : State) (before : Nat) : s.thresholdCondition before = true ↔
    before < s.checker.totalFailing ∧ Plan.haltThreshold s.stroke.latched ≠ 0 ∧
      Plan.haltThreshold s.stroke.latched < s.checker.totalFailing := by
  simp [State.thresholdCondition, and_assoc]

/-- The scope of the halting conditions (R52). -/
theorem State.haltingScope_iff (s : State) : s.haltingScope = true ↔
    s.stroke.state = .acquiring ∧ (Plan.word s.stroke.latched 0).getLsbD 16 = false := by
  unfold State.haltingScope Plan.source
  cases (Plan.word s.stroke.latched 0).getLsbD 16 <;> simp

/-- Settles O37. -/
theorem beatCountsAndHalting : Obligations.BeatCountsAndHalting := by
  intro s c st w hu hf
  have hc := State.cell_lt_of_used hu
  rw [State.presentBeat_judged st w hu hf]
  dsimp only
  generalize hj : judge s.recipe.shadow (pinProfile s.recipe.shadow c) st w (s.pin c) = j
  have hfault := s.faultCondition_judge c st w
  simp only [hj] at hfault
  rw [State.pin_putPin_self _ _ _ hc]
  refine ⟨fun d hd => State.pin_putPin_ne _ _ _ _ hd, fun n hn => ⟨slotOf_lt hn, fun hfails => ?_, fun hnot => ?_⟩, ?_⟩
  · obtain ⟨i, hi, -, -, htotal, hcount⟩ | ⟨hnone | hnot, -⟩ := s.putPin_counts c j.1.ctx
    · obtain rfl := Option.some.inj (hn.symm.trans hi)
      exact ⟨htotal, by rw [hcount, if_pos rfl], fun d hd => by rw [hcount, if_neg hd]⟩
    · rw [hn] at hnone
      contradiction
    · exact absurd hfails hnot
  · obtain ⟨i, -, hgood, hfailed, -⟩ | ⟨-, htotal, hcount⟩ := s.putPin_counts c j.1.ctx
    · exact absurd ⟨hgood, hfailed⟩ hnot
    · exact ⟨htotal, hcount⟩
  · rw [Bool.and_eq_true, Bool.or_eq_true, State.haltingScope_iff, hfault, State.thresholdCondition_iff, and_assoc]
    simp

end Sys2Proof.Machine

/-! PROOFS. The arming checks by their rules (R17 to R20): extents, slots, profiles, and the order of the walk. -/

namespace Sys2Proof.Machine

/-! ## Extents -/

/-- Two extents that are not empty are disjoint when no address lies in both (R18). -/
theorem disjoint_iff {b1 n1 b2 n2 : Nat} (h1 : 0 < n1) (h2 : 0 < n2) : disjoint b1 n1 b2 n2 = true ↔
    ∀ a, ¬ ((b1 ≤ a ∧ a < b1 + n1) ∧ (b2 ≤ a ∧ a < b2 + n2)) := by
  rw [disjoint, Bool.or_eq_true, decide_eq_true_eq, decide_eq_true_eq]
  constructor
  · rintro h a ⟨⟨h3, h4⟩, h5, h6⟩
    omega
  · intro h
    have := h (max b1 b2)
    omega

/-! ## The sixteen checks -/

theorem State.checkFailure_check (s : State) (n : Nat) :
    s.checkFailure (.check n) = none ∨ s.checkFailure (.check n) = some (if 6 ≤ n ∧ n ≤ 10 then .plan else .geometry, n) := by
  unfold State.checkFailure checkKind
  dsimp only
  split
  · exact .inl rfl
  · exact .inr rfl

theorem State.checkFailure_check_iff (s : State) (n : Nat) : s.checkFailure (.check n) = none ↔ s.checkHolds n = true := by
  simp [State.checkFailure]

/-- A plan has an active slot when its mask is not zero. -/
theorem slotMask_ne_zero_iff (p : Plan) : Plan.slotMask p ≠ 0#4 ↔ ∃ n < 4, Plan.active p n = true := by
  constructor
  · intro h
    by_contra hnone
    refine h (BitVec.eq_of_getLsbD_eq fun i hi => ?_)
    rw [BitVec.getLsbD_zero]
    exact Bool.eq_false_iff.mpr fun hb => hnone ⟨i, hi, hb⟩
  · rintro ⟨n, -, hn⟩ h
    rw [Plan.active, h, BitVec.getLsbD_zero] at hn
    contradiction

/-! ## Slots -/

theorem State.slotHolds_iff (s : State) (n : Nat) : s.slotHolds n = true ↔
    firstCell s.recipe.shadow n ≤ lastCell s.recipe.shadow n ∧ lastCell s.recipe.shadow n < cellCount s.recipe.shadow ∧
      allowance s.recipe.shadow n ≤ 1024 ∧ ∀ k < n, Plan.active s.stroke.latched k = true →
        ¬ (firstCell s.recipe.shadow n ≤ lastCell s.recipe.shadow k ∧
          firstCell s.recipe.shadow k ≤ lastCell s.recipe.shadow n) := by
  have hapart : ∀ k, (!Plan.active s.stroke.latched k || decide (lastCell s.recipe.shadow n < firstCell s.recipe.shadow k) ||
      decide (lastCell s.recipe.shadow k < firstCell s.recipe.shadow n)) = true ↔
      (Plan.active s.stroke.latched k = true → ¬ (firstCell s.recipe.shadow n ≤ lastCell s.recipe.shadow k ∧
        firstCell s.recipe.shadow k ≤ lastCell s.recipe.shadow n)) := fun k => by
    cases Plan.active s.stroke.latched k <;> simp; omega
  simp only [State.slotHolds, Bool.and_eq_true, decide_eq_true_eq, List.all_eq_true, List.mem_range, hapart, and_assoc]
  rfl

/-! ## Profiles -/

/-- The checks of one zone (R20). -/
theorem zoneValid_iff (m : Memory) (n z : Nat) (hz : 1 ≤ z) : zoneValid m n z = true ↔
    firstStep m n z ≤ lastStep m n z ∧ (floorOf m n z).toNat ≤ (ceilingOf m n z).toNat ∧
      (2 ≤ z → lastStep m n (z - 1) < firstStep m n z) ∧ (zoneKind m n z = .entry → z = 1) ∧
      (zoneKind m n z = .seat → ∀ y, 1 ≤ y → y < z → zoneKind m n y ≠ .seat) ∧
      (zoneKind m n z = .hold → ∃ y, 1 ≤ y ∧ y < z ∧ zoneKind m n y = .seat) := by
  have hrange : ∀ y, y ∈ List.range' 1 (z - 1) ↔ 1 ≤ y ∧ y < z := fun y => by
    rw [List.mem_range'_1]
    omega
  have hprev : (z = 1 ∨ lastStep m n (z - 1) < firstStep m n z) ↔ (2 ≤ z → lastStep m n (z - 1) < firstStep m n z) := by
    omega
  unfold zoneValid
  simp only [Bool.and_eq_true, Bool.or_eq_true, decide_eq_true_eq, beq_iff_eq, bne_iff_ne, List.all_eq_true, List.any_eq_true,
    hrange, hprev, and_assoc, BitVec.le_def, and_imp]
  simp only [← imp_iff_not_or, or_comm (a := z = 1)]

/-- Validity of a profile (R20). -/
theorem profileValid_iff (m : Memory) (n S : Nat) : profileValid m n S = true ↔
    (1 ≤ zoneCount m n ∧ zoneCount m n ≤ 8) ∧ (∀ z, 1 ≤ z → z ≤ zoneCount m n → zoneValid m n z = true) ∧
      lastStep m n (zoneCount m n) < S := by
  have hrange : ∀ z, z ∈ List.range' 1 (zoneCount m n) ↔ 1 ≤ z ∧ z ≤ zoneCount m n := fun z => by
    rw [List.mem_range'_1]
    omega
  simp only [profileValid, Bool.and_eq_true, decide_eq_true_eq, List.all_eq_true, hrange, and_assoc, and_imp]

/-- Validity of a profile, rule by rule (R20). -/
theorem profileValid_rules (m : Memory) (n S : Nat) : profileValid m n S = true ↔
    (1 ≤ zoneCount m n ∧ zoneCount m n ≤ 8) ∧
      (∀ z, 1 ≤ z → z ≤ zoneCount m n → firstStep m n z ≤ lastStep m n z) ∧
      (∀ z, 1 ≤ z → z ≤ zoneCount m n → (floorOf m n z).toNat ≤ (ceilingOf m n z).toNat) ∧
      (∀ z, 2 ≤ z → z ≤ zoneCount m n → lastStep m n (z - 1) < firstStep m n z) ∧
      lastStep m n (zoneCount m n) < S ∧
      (∀ z, 1 ≤ z → z ≤ zoneCount m n → zoneKind m n z = .entry → z = 1) ∧
      (∀ y z, 1 ≤ y → y < z → z ≤ zoneCount m n → ¬ (zoneKind m n y = .seat ∧ zoneKind m n z = .seat)) ∧
      (∀ z, 1 ≤ z → z ≤ zoneCount m n → zoneKind m n z = .hold → ∃ y, 1 ≤ y ∧ y < z ∧ zoneKind m n y = .seat) := by
  rw [profileValid_iff]
  constructor
  · rintro ⟨hcount, hzones, hlast⟩
    have hzone := fun z h1 h2 => (zoneValid_iff m n z h1).mp (hzones z h1 h2)
    refine ⟨hcount, fun z h1 h2 => ?_, fun z h1 h2 => ?_, fun z h1 h2 => ?_, hlast, fun z h1 h2 => ?_, fun y z h1 hlt h2 h => ?_,
      fun z h1 h2 => ?_⟩
    · exact (hzone z h1 h2).1
    · exact (hzone z h1 h2).2.1
    · obtain ⟨-, -, hprev, -⟩ := hzone z (by omega) h2
      exact hprev h1
    · obtain ⟨-, -, -, hentry, -⟩ := hzone z h1 h2
      exact hentry
    · obtain ⟨-, -, -, -, hseat, -⟩ := hzone z (by omega) h2
      exact hseat h.2 y h1 hlt h.1
    · obtain ⟨-, -, -, -, -, hhold⟩ := hzone z h1 h2
      exact hhold
  · rintro ⟨hcount, hsteps, hband, hprev, hlast, hentry, hseat, hhold⟩
    refine ⟨hcount, fun z h1 h2 => (zoneValid_iff m n z h1).mpr ?_, hlast⟩
    exact ⟨hsteps z h1 h2, hband z h1 h2, fun h => hprev z h h2, hentry z h1 h2,
      fun hz y hy hlt h => hseat y z hy hlt h2 ⟨h, hz⟩, hhold z h1 h2⟩

/-! ## The order of the walk -/

theorem usedFrom_eq_some {m : Memory} {p : Plan} {k c : Nat} (hk : k ≤ c) (hc : c < 1024) (hu : usedPin m p c = true)
    (hnone : ∀ d, k ≤ d → d < c → usedPin m p d = false) : usedFrom m p k = some c := by
  have hcells : Config.cells = 1024 := rfl
  rw [usedFrom, List.find?_range'_eq_some]
  refine ⟨hu, List.mem_range'_1.mpr (by omega), fun d h1 h2 => ?_⟩
  rw [hnone d h1 h2]
  rfl

theorem usedFrom_eq_none {m : Memory} {p : Plan} {k : Nat} (hnone : ∀ c, k ≤ c → c < 1024 → usedPin m p c = false) :
    usedFrom m p k = none := by
  rw [usedFrom, List.find?_eq_none]
  intro c hc
  obtain ⟨h1, h2⟩ := List.mem_range'_1.mp hc
  have : Config.cells = 1024 := rfl
  rw [hnone c h1 (by omega)]
  decide

theorem activeFrom_none_of {p : Plan} {k : Nat} (h : ∀ n, k ≤ n → n < 4 → Plan.active p n = false) : activeFrom p k = none := by
  rw [activeFrom, List.find?_eq_none]
  intro n hn
  have hlt : n < 4 := by
    simp only [List.mem_cons, List.not_mem_nil, or_false] at hn
    omega
  by_cases hk : k ≤ n
  · simp [h n hk hlt]
  · simp [hk]

/-- With no active slot left, the walk goes on to the first used pin (R17). -/
theorem slotPosition_of_none {m : Memory} {p : Plan} {k : Nat} (h : ∀ n, k ≤ n → n < 4 → Plan.active p n = false) :
    slotPosition m p k = pinPosition m p 0 := by
  rw [slotPosition, activeFrom_none_of h]

/-- Settles O40. -/
theorem armingChecksByTheirRules : Obligations.ArmingChecksByTheirRules := by
  refine ⟨fun s => ?_, fun s n _ => ⟨?_, ?_⟩, fun m n S => ?_, fun s c => ?_, fun m p w k => ?_⟩
  · intro m p C L G R cap F within apart passes
    have hpass : ∀ n, passes n ↔ s.checkHolds n = true := s.checkFailure_check_iff
    have hF : s.footprintSize = F := rfl
    have hring : s.ringExtent = cap * 32 := rfl
    have hregion : Config.regionBytes = 0x4000 := rfl
    refine ⟨fun n _ _ => s.checkFailure_check n, ?_, ?_, ?_, ?_, ?_, ?_, ?_, ?_, ?_, ?_, ?_, ?_, fun hfoot hcap => ⟨?_, ?_, ?_, ?_⟩⟩
    all_goals rw [hpass]
    · simp only [State.checkHolds, Bool.and_eq_true, decide_eq_true_eq]
      exact Iff.rfl
    · simp [State.checkHolds, L, m]
    · simp [State.checkHolds, G, m]
    · exact validCapacity_iff _
    · simp [State.checkHolds, hring, R, m]
    · simp only [State.checkHolds, Bool.and_eq_true, decide_eq_true_eq]
      exact Iff.rfl
    · exact bne_iff_ne.trans (slotMask_ne_zero_iff _)
    · simp [State.checkHolds, p]
    · simp [State.checkHolds, p]
    · simp [State.checkHolds, p]
    · simp [State.checkHolds, hF, Config.addressSpace, L, m]
    · simp [State.checkHolds, hF, Config.addressSpace, G, m]
    · rw [State.checkHolds, hF, Bool.or_eq_true, beq_iff_eq, disjoint_iff hfoot hfoot]
    · rw [State.checkHolds, hF, Bool.and_eq_true, State.clearOfRegion, State.clearOfRing, hring, hregion,
        disjoint_iff hfoot (by decide), disjoint_iff hfoot (by omega)]
    · rw [State.checkHolds, hF, Bool.and_eq_true, State.clearOfRegion, State.clearOfRing, hring, hregion,
        disjoint_iff hfoot (by decide), disjoint_iff hfoot (by omega)]
    · rw [State.checkHolds, State.clearOfRegion, hring, hregion, disjoint_iff (by omega) (by decide)]
  · unfold State.checkFailure
    dsimp only
    split
    · exact .inl rfl
    · exact .inr rfl
  · rw [← s.slotHolds_iff n]
    simp [State.checkFailure]
  · exact profileValid_rules m n S
  · rfl
  · intro used slotsFrom pinsFrom
    have hused : ∀ c, usedPin m p c = true ↔ used c := usedPin_iff m p
    have hunused : ∀ c, ¬ used c → usedPin m p c = false := fun c h => Bool.eq_false_iff.mpr (mt (hused c).mp h)
    have hslots : slotsFrom → w.after m p = slotPosition m p k := by
      rintro (⟨rfl, rfl⟩ | ⟨n, rfl, rfl⟩) <;> rfl
    have hpins : pinsFrom → w.after m p = pinPosition m p k := by
      rintro (⟨rfl, rfl, hnone⟩ | ⟨rfl, n, rfl, hnone⟩ | ⟨c, rfl, rfl⟩)
      · exact slotPosition_of_none fun n _ hn => hnone n hn
      · exact slotPosition_of_none fun j hj hlt => hnone j hj hlt
      · rfl
    refine ⟨fun hw hk => ?_, fun h n h1 h2 ha hl => ?_, fun h c h1 h2 hu hl => ?_, fun h hl => ?_⟩
    · subst hw
      exact if_pos hk
    · rw [hslots h, slotPosition, activeFrom_eq_some h1 h2 ha hl]
    · rw [hpins h, pinPosition, usedFrom_eq_some h1 h2 ((hused c).mpr hu) fun d h3 h4 => hunused d (hl d h3 h4)]
    · rw [hpins h, pinPosition, usedFrom_eq_none fun c h3 h4 => hunused c (hl c h3 h4)]

end Sys2Proof.Machine

/-! PROOFS. The closing walk: the records it composes, the cursor, the final check and the steps (R109 to R118, R122, R123, R48). -/

namespace Sys2Proof.Machine

/-! ## Composition -/

theorem lastCell_lt (m : Memory) (n : Nat) : lastCell m n < 1024 := by
  unfold lastCell field
  exact BitVec.isLt _

theorem mem_slotCells {m : Memory} {n c : Nat} : c ∈ slotCells m n ↔ firstCell m n ≤ c ∧ c ≤ lastCell m n := by
  rw [slotCells, List.mem_range'_1]
  omega

/-- The cells of a slot are the tool cells in its range. -/
theorem slotCells_perm (m : Memory) (n : Nat) : (slotCells m n).Perm
    ((List.range 1024).filter fun c => decide (firstCell m n ≤ c) && decide (c ≤ lastCell m n)) := by
  refine (List.perm_ext_iff_of_nodup List.nodup_range' (List.nodup_range.filter _)).mpr fun c => ?_
  have hlast := lastCell_lt m n
  change c ∈ slotCells m n ↔ _
  rw [mem_slotCells, List.mem_filter, List.mem_range, Bool.and_eq_true, decide_eq_true_eq, decide_eq_true_eq]
  omega

/-- The used pins of a slot (R116). -/
theorem State.pinsChecked_eq (s : State) (n : Nat) : s.pinsChecked n = ((List.range 1024).filter fun d =>
    decide (firstCell s.recipe.shadow n ≤ d) && decide (d ≤ lastCell s.recipe.shadow n) && (s.pin d).health != .unused).length := by
  rw [State.pinsChecked, ((slotCells_perm s.recipe.shadow n).filter _).length_eq, List.filter_filter]
  simp only [Bool.and_comm, Bool.and_assoc]

/-! ## The cursor -/

/-- A used pin of the cursor's slot that the walk has not passed (R109). -/
def State.PinLeft (s : State) (c : Nat) : Prop :=
  firstCell s.recipe.shadow s.walker.cursorSlot ≤ c ∧ s.walker.cursorCell ≤ c ∧
    c ≤ lastCell s.recipe.shadow s.walker.cursorSlot ∧ (s.pin c).health ≠ .unused

theorem State.nextPin_eq_some_iff (s : State) (c : Nat) : s.nextPin = some c ↔ s.PinLeft c ∧ ∀ d < c, ¬ s.PinLeft d := by
  have htest : ∀ d, (decide (s.walker.cursorCell ≤ d) && (s.pin d).health != .unused) = true ↔
      s.walker.cursorCell ≤ d ∧ (s.pin d).health ≠ .unused := fun d => by simp
  rw [State.nextPin, slotCells, List.find?_range'_eq_some, htest, List.mem_range'_1]
  constructor
  · rintro ⟨⟨hcursor, hused⟩, ⟨hlow, hhigh⟩, hbelow⟩
    refine ⟨⟨hlow, hcursor, by omega, hused⟩, fun d hd hleft => ?_⟩
    obtain ⟨h1, h2, -, h3⟩ := hleft
    have := hbelow d h1 hd
    rw [Bool.not_eq_true', ← Bool.not_eq_true, htest] at this
    exact this ⟨h2, h3⟩
  · rintro ⟨⟨hlow, hcursor, hhigh, hused⟩, hbelow⟩
    refine ⟨⟨hcursor, hused⟩, ⟨hlow, by omega⟩, fun d h1 hd => ?_⟩
    rw [Bool.not_eq_true', ← Bool.not_eq_true, htest]
    exact fun h => hbelow d hd ⟨h1, h.1, by omega, h.2⟩

theorem State.nextPin_eq_none_iff (s : State) : s.nextPin = none ↔ ∀ c, ¬ s.PinLeft c := by
  rw [State.nextPin, List.find?_eq_none]
  simp only [mem_slotCells, Bool.and_eq_true, decide_eq_true_eq, bne_iff_ne]
  exact ⟨fun h c ⟨h1, h2, h3, h4⟩ => h c ⟨h1, h3⟩ ⟨h2, h4⟩, fun h c ⟨h1, h3⟩ ⟨h2, h4⟩ => h c ⟨h1, h2, h3, h4⟩⟩

/-! ## The final check -/

theorem State.finalCheck_of_fault {s : State} {c : Nat} {o : StrokeOutcome} {k : FaultKind} (ho : s.stroke.outcome = some o)
    (hk : finalFault s.recipe.shadow (pinProfile s.recipe.shadow c) o (s.pin c) = some k) :
    s.finalCheck c = s.putPin c ((s.pin c).addFault k (Plan.stepCount s.stroke.latched)) := by
  simp [State.finalCheck, ho, hk]

theorem State.finalCheck_of_none {s : State} {c : Nat} {o : StrokeOutcome} (ho : s.stroke.outcome = some o)
    (hk : finalFault s.recipe.shadow (pinProfile s.recipe.shadow c) o (s.pin c) = none) : s.finalCheck c = s := by
  simp [State.finalCheck, ho, hk]

/-- The pin after a final check that adds a fault. -/
theorem State.pin_finalCheck {s : State} {c : Nat} {o : StrokeOutcome} {k : FaultKind} (ho : s.stroke.outcome = some o)
    (hc : c < 1024) (hk : finalFault s.recipe.shadow (pinProfile s.recipe.shadow c) o (s.pin c) = some k) :
    (s.finalCheck c).pin c = (s.pin c).addFault k (Plan.stepCount s.stroke.latched) := by
  rw [State.finalCheck_of_fault ho hk, State.pin_putPin_self _ _ _ hc]

/-- The slot of a pin is the lowest active slot that holds its cell (R7). -/
theorem slotOf_eq_some {m : Memory} {p : Plan} {c k : Nat} (hk : k < 4) (ha : Plan.active p k = true) (h1 : firstCell m k ≤ c)
    (h2 : c ≤ lastCell m k) (hl : ∀ j < k, Plan.active p j = true → c < firstCell m j ∨ lastCell m j < c) :
    slotOf m p c = some k := by
  have hbelow : ∀ j < k, (Plan.active p j && inSlot m j c) = false := fun j hj => by
    by_contra h
    simp only [inSlot, Bool.not_eq_false, Bool.and_eq_true, decide_eq_true_eq] at h
    have := hl j hj h.1
    omega
  unfold slotOf
  rw [List.find?_eq_some_iff_append]
  refine ⟨by simp [ha, inSlot, h1, h2], List.range k, (List.range 4).drop (k + 1), by interval_cases k <;> rfl, fun j hj => ?_⟩
  rw [hbelow j (List.mem_range.mp hj)]
  rfl

/-- The final check moves the counts as a replaced context does (R49). -/
theorem State.finalCheck_counts {s : State} {c : Nat} {o : StrokeOutcome} (ho : s.stroke.outcome = some o) (hc : c < 1024) :
    (∀ d, d ≠ c → (s.finalCheck c).pin d = s.pin d) ∧
      (¬ ((s.pin c).health = .good ∧ ((s.finalCheck c).pin c).health = .failed) →
        (s.finalCheck c).checker.totalFailing = s.checker.totalFailing ∧ ∀ k, (s.finalCheck c).slotFailing k = s.slotFailing k) ∧
      ∀ k, slotOf s.recipe.shadow s.stroke.latched c = some k → (s.pin c).health = .good →
        ((s.finalCheck c).pin c).health = .failed →
        (s.finalCheck c).checker.totalFailing = s.checker.totalFailing + 1 ∧
          (s.finalCheck c).slotFailing k = s.slotFailing k + 1 ∧
          ∀ j, j ≠ k → (s.finalCheck c).slotFailing j = s.slotFailing j := by
  cases hk : finalFault s.recipe.shadow (pinProfile s.recipe.shadow c) o (s.pin c) with
  | none =>
    rw [State.finalCheck_of_none ho hk]
    refine ⟨fun _ _ => rfl, fun _ => ⟨rfl, fun _ => rfl⟩, fun k _ h1 h2 => absurd (h1.symm.trans h2) (by decide)⟩
  | some i =>
    rw [State.pin_finalCheck ho hc hk, State.finalCheck_of_fault ho hk]
    obtain ⟨n, hn, hgood, hfailed, htotal, hcount⟩ | ⟨hnot, htotal, hcount⟩ :=
      s.putPin_counts c ((s.pin c).addFault i (Plan.stepCount s.stroke.latched))
    · refine ⟨fun d hd => State.pin_putPin_ne _ _ _ _ hd, fun h => absurd ⟨hgood, hfailed⟩ h, fun k hk _ _ => ?_⟩
      obtain rfl := Option.some.inj (hk.symm.trans hn)
      exact ⟨htotal, by rw [hcount, if_pos rfl], fun j hj => by rw [hcount, if_neg hj]⟩
    · refine ⟨fun d hd => State.pin_putPin_ne _ _ _ _ hd, fun _ => ⟨htotal, hcount⟩, fun k hk h1 h2 => ?_⟩
      rcases hnot with h | h
      · rw [hk] at h
        contradiction
      · exact absurd ⟨h1, h2⟩ h

/-! ## The step of a pin -/

@[simp] theorem State.pin_finalCheck_keeps (s : State) (c : Nat) :
    (s.finalCheck c).generalFree = s.generalFree ∧ (s.finalCheck c).omits = s.omits ∧
      (s.finalCheck c).ringFull = s.ringFull ∧ (s.finalCheck c).writerBusy = s.writerBusy ∧
      (s.finalCheck c).records = s.records := by
  obtain ⟨-, -, -, -, -, hrecipe, -, hstroke, -, -, hwriter, -, harbiter, -⟩ := s.finalCheck_frame c
  have hfree : (s.finalCheck c).generalFree = s.generalFree := by
    rw [State.generalFree, State.entries, hwriter]
    rfl
  have hfull : (s.finalCheck c).ringFull = s.ringFull := by
    rw [State.ringFull, State.ringCapacity, hwriter, hrecipe]
    rfl
  refine ⟨hfree, ?_, hfull, ?_, ?_⟩
  · rw [State.omits, hfree, hfull, hstroke]
    rfl
  · rw [State.writerBusy, harbiter]
    rfl
  · rw [State.records, hwriter]
    rfl

theorem State.queuePin_records (s : State) (c : Nat) :
    (s.queuePin c).records = s.records ++ [.pin (s.composePin s.walker.cursorSlot c)] ∧
      (s.queuePin c).walker = { s.walker with state := .walking, cursorCell := c + 1, held := none } := by
  refine ⟨s.records_enqueue _, ?_⟩
  simp [State.queuePin, State.walkOn]

theorem State.queuePin_lines (s : State) (c : Nat) : (s.queuePin c).lines =
    if s.writer.queue = [] ∧ s.ringFull = true ∧ s.writerBusy = false then
      { s.lines with flags := s.lines.flags ||| 0x20#9 } else s.lines :=
  s.enqueue_lines _

/-- An empty report queue has a free general entry (R182). -/
theorem State.generalFree_of_empty {s : State} (h : s.writer.queue = []) : s.generalFree = true := by
  simp [State.generalFree, State.entries, h, Config.generalEntries]

theorem exec_closingWalkStep (s : State) : exec .closingWalkStep s = execClosingWalkStep s := rfl

theorem State.execClosingWalkStep_pin {s : State} {c : Nat} (hs : s.stroke.state = .closing) (hw : s.walker.state = .walking)
    (hn : s.nextPin = some c) : exec .closingWalkStep s = .next ((s.finalCheck c).reportPin c) := by
  rw [exec_closingWalkStep, execClosingWalkStep, if_pos ⟨hs, hw⟩, State.walkStep, hn]

theorem State.execClosingWalkStep_slot {s : State} (hs : s.stroke.state = .closing) (hw : s.walker.state = .walking)
    (hn : s.nextPin = none) : exec .closingWalkStep s = .next s.reportSlot := by
  rw [exec_closingWalkStep, execClosingWalkStep, if_pos ⟨hs, hw⟩, State.walkStep, hn]

theorem State.pinDue_iff (s : State) (c : Nat) : s.pinDue c = true ↔
    (Plan.word s.stroke.latched 0).getLsbD 19 = true ∨ (s.pin c).faults ≠ 0#9 := by
  rw [State.pinDue, Bool.or_eq_true, bne_iff_ne]
  rfl

theorem State.generalFree_entries (s : State) : s.generalFree = true ↔ s.entries Record.general < 14 := decide_eq_true_iff

theorem State.omits_iff {s : State} (h : s.generalFree = false) : s.omits = true ↔
    (Plan.word s.stroke.latched 0).getLsbD 20 = true ∧ s.ringFull = true := by
  simp [State.omits, h, Plan.omitPolicy]

theorem State.reportPin_of_not_due {s : State} {c : Nat} (h : ¬ s.pinDue c = true) : s.reportPin c = s.walkOn (c + 1) := if_neg h

theorem State.reportPin_of_room {s : State} {c : Nat} (h : s.pinDue c = true) (hr : s.generalFree = true) :
    s.reportPin c = s.queuePin c := by
  simp [State.reportPin, h, hr]

theorem State.reportPin_of_omits {s : State} {c : Nat} (h : s.pinDue c = true) (hr : s.generalFree = false) (ho : s.omits = true) :
    s.reportPin c = s.omitPin c := by
  simp [State.reportPin, h, hr, ho]

theorem State.reportPin_of_pause {s : State} {c : Nat} (h : s.pinDue c = true) (hr : s.generalFree = false) (ho : s.omits = false) :
    s.reportPin c = s.pauseWalk c .pinRecord := by
  simp [State.reportPin, h, hr, ho]

end Sys2Proof.Machine

/-! PROOFS. The two steps of the closing walk and the obligation on them (R110, R116, R117, R118, R122, R123). -/

namespace Sys2Proof.Machine

/-! ## The step of a slot -/

/-- The slot reject mask after a SLOT_VERDICT (R117). -/
theorem State.getLsbD_markReject (s : State) (v : SlotVerdict) {k : Nat} (hk : k < 4) :
    (s.markReject v).walker.rejectMask.getLsbD k = (s.walker.rejectMask.getLsbD k || (k == v.slot && v.outcome == .reject)) := by
  unfold State.markReject
  split
  · next h => simp [h, hk, Bool.beq_eq_decide_eq]
  · next h => simp [h]

/-- The cursor's slot has its SLOT_VERDICT queued, before the cursor moves (R116). -/
def State.slotQueued (s : State) : State :=
  (s.markReject (s.composeSlot s.walker.cursorSlot)).enqueue (.slot (s.composeSlot s.walker.cursorSlot))

theorem State.queueSlot_eq (s : State) : s.queueSlot = s.slotQueued.nextSlot := rfl

/-- What the SLOT_VERDICT's queueing leaves. -/
theorem State.slotQueued_spec (s : State) :
    s.slotQueued.stroke = s.stroke ∧ s.slotQueued.checker = s.checker ∧ s.slotQueued.recipe = s.recipe ∧
      s.slotQueued.walker = (s.markReject (s.composeSlot s.walker.cursorSlot)).walker ∧
      s.slotQueued.walker.cursorSlot = s.walker.cursorSlot ∧
      s.slotQueued.records = s.records ++ [.slot (s.composeSlot s.walker.cursorSlot)] ∧ s.slotQueued.writer.queue ≠ [] := by
  have hcursor : ∀ v, (s.markReject v).walker.cursorSlot = s.walker.cursorSlot := fun v => by
    unfold State.markReject
    split <;> rfl
  unfold State.slotQueued
  refine ⟨by simp, by simp, by simp, by simp, ?_, ?_, by simp⟩
  · simp [hcursor]
  · rw [State.records_enqueue]
    simp [State.records]

theorem State.slotQueued_lines (s : State) : s.slotQueued.lines =
    if s.writer.queue = [] ∧ s.ringFull = true ∧ s.writerBusy = false then
      { s.lines with flags := s.lines.flags ||| 0x20#9 } else s.lines := by
  obtain ⟨-, -, -, -, -, hrecipe, -, -, -, -, hwriter, hlines, harbiter, -⟩ :=
    s.markReject_frame (s.composeSlot s.walker.cursorSlot)
  have hfull : (s.markReject (s.composeSlot s.walker.cursorSlot)).ringFull = s.ringFull := by
    rw [State.ringFull, State.ringCapacity, hwriter, hrecipe]
    rfl
  have hbusy : (s.markReject (s.composeSlot s.walker.cursorSlot)).writerBusy = s.writerBusy := by
    rw [State.writerBusy, harbiter]
    rfl
  rw [State.slotQueued, State.enqueue_lines, hfull, hbusy, hwriter, hlines]

/-- After the last active slot the STROKE_VERDICT is queued (R109). -/
theorem State.nextSlot_of_last {s : State} {o : StrokeOutcome} (ho : s.stroke.outcome = some o)
    (hl : ∀ k, s.walker.cursorSlot < k → k < 4 → Plan.active s.stroke.latched k = false) :
    s.nextSlot = s.queueStrokeVerdict o := by
  have hnone : activeFrom s.stroke.latched (s.walker.cursorSlot + 1) = none := activeFrom_none_of hl
  simp [State.nextSlot, hnone, ho]

/-- Before the last active slot the cursor moves to the next one (R109). -/
theorem State.nextSlot_of_more {s : State} (hl : ¬ ∀ k, s.walker.cursorSlot < k → k < 4 → Plan.active s.stroke.latched k = false) :
    ∃ n, s.walker.cursorSlot < n ∧ n < 4 ∧ Plan.active s.stroke.latched n = true ∧
      (∀ k, s.walker.cursorSlot < k → k < n → Plan.active s.stroke.latched k = false) ∧
      s.nextSlot = { s with walker :=
        { s.walker with state := .walking, cursorSlot := n, cursorCell := firstCell s.recipe.shadow n, held := none } } := by
  have hex : ∃ n, s.walker.cursorSlot < n ∧ n < 4 ∧ Plan.active s.stroke.latched n = true := by
    simpa using hl
  obtain ⟨hlow, hhigh, hactive⟩ := Nat.find_spec hex
  have hfirst : ∀ k, s.walker.cursorSlot < k → k < Nat.find hex → Plan.active s.stroke.latched k = false := fun k h1 h2 => by
    have h3 := Nat.find_min hex h2
    exact Bool.eq_false_iff.mpr fun h => h3 ⟨h1, h2.trans hhigh, h⟩
  refine ⟨Nat.find hex, hlow, hhigh, hactive, hfirst, ?_⟩
  rw [State.nextSlot, activeFrom_eq_some hlow hhigh hactive hfirst]

/-! ## The obligation -/

/-- Settles O43. -/
theorem closingWalkSteps : Obligations.ClosingWalkSteps := by
  refine ⟨fun s n c o => ⟨rfl, rfl, s.pinsChecked_eq n, rfl⟩, fun s => ⟨s.nextPin_eq_some_iff, s.nextPin_eq_none_iff⟩,
    fun s c o ho hc => ?_, fun s c hs hw hn => ?_, fun s o hs hw hn ho hcursor => ?_⟩
  · intro x n step t
    obtain ⟨hothers, hkept, hfails⟩ := s.finalCheck_counts ho hc
    have hfault : ∀ k, finalFault s.recipe.shadow n o x = some k → t.pin c = x.addFault k step := fun k => State.pin_finalCheck ho hc
    have hnone : finalFault s.recipe.shadow n o x = none → t = s := State.finalCheck_of_none ho
    refine ⟨fun h => hnone ?_, fun hne h1 h2 => hfault _ ?_, fun hcomplete hin => ⟨fun hk he => hfault _ ?_, fun hk he => hnone ?_,
      fun hk hseat => hfault _ ?_, fun hk hseat => hnone ?_, fun hk => hnone ?_⟩, hothers, by simp [t], by simp [t], hkept,
      fun k hk hf ha hfirst hlast hl => hfails k (slotOf_eq_some hk ha hfirst hlast hl) hf.1 hf.2⟩
    · rcases h with h | h <;> simp [finalFault, h]
    · unfold finalFault
      cases hp : x.progress <;> simp_all
    · simp [finalFault, hcomplete, hin, exitFault, hk, he]
    · simp [finalFault, hcomplete, hin, exitFault, hk, Option.isNone_iff_eq_none, he]
    · simp [finalFault, hcomplete, hin, exitFault, hk, hseat]
    · simp [finalFault, hcomplete, hin, exitFault, hk, hseat]
    · rcases hk with hk | hk <;> simp [finalFault, hcomplete, hin, exitFault, hk]
  · intro u due room gives
    obtain ⟨-, -, -, -, -, hrecipe, -, hstroke, -, hwalker, hwriter, hlines, -, -⟩ := s.finalCheck_frame c
    obtain ⟨hfree, homits, hfull, hbusy, hrecords⟩ := s.pin_finalCheck_keeps c
    have hdue : u.pinDue c = true ↔ due := by
      rw [State.pinDue_iff, hstroke]
    have hroom : u.generalFree = true ↔ room := by
      rw [hfree, State.generalFree_entries]
    have hgives : ¬ room → (u.omits = true ↔ gives) := fun h => by
      rw [homits, State.omits_iff (Bool.eq_false_iff.mpr fun h' => h (hroom.mp (hfree.trans h')))]
    refine ⟨_, State.execClosingWalkStep_pin hs hw hn, by simp [u], by simp, by simp, by simp, by simp, ?_⟩
    change (u.reportPin c).walker.cursorSlot = _ ∧ _
    by_cases hd : due
    · by_cases hr : room
      · obtain ⟨hqueued, hwalk⟩ := u.queuePin_records c
        rw [State.reportPin_of_room (hdue.mpr hd) (hroom.mpr hr), hwalk, hqueued, hrecords, u.queuePin_lines, hwriter, hfull, hbusy,
          hlines, hwalker]
        simp [hd, hr]
      · have hqueue : s.writer.queue ≠ [] := fun h => hr (hroom.mp (hfree.trans (State.generalFree_of_empty h)))
        have hfull' : u.generalFree = false := Bool.eq_false_iff.mpr fun h => hr (hroom.mp h)
        by_cases hg : gives
        · rw [State.reportPin_of_omits (hdue.mpr hd) hfull' ((hgives hr).mpr hg)]
          simp [State.omitPin, State.walkOn, hd, hr, hg, u, State.records]
        · rw [State.reportPin_of_pause (hdue.mpr hd) hfull' (Bool.eq_false_iff.mpr (mt (hgives hr).mp hg))]
          simp [State.pauseWalk, hd, hr, hg, u, State.records]
    · rw [State.reportPin_of_not_due (mt hdue.mp hd)]
      simp [State.walkOn, hd, u, State.records]
  · intro n failing allowed outcome verdict last
    have hverdict : s.composeSlot s.walker.cursorSlot = verdict := by
      simp [State.composeSlot, slotOutcome, ho, verdict, outcome, failing, allowed, n]
    obtain ⟨hstroke, hchecker, hrecipe, hwalker, hcur, hrecords, hqueue⟩ := s.slotQueued_spec
    rw [hverdict] at hwalker hrecords
    refine ⟨_, State.execClosingWalkStep_slot hs hw hn, by simp, by simp, by simp, ?_⟩
    by_cases hr : s.generalFree = true
    · have hroom : s.entries Record.general < 14 := s.generalFree_entries.mp hr
      have hq : s.reportSlot = s.slotQueued.nextSlot := if_pos hr
      have hmask : ∀ k < 4, s.slotQueued.walker.rejectMask.getLsbD k =
          (s.walker.rejectMask.getLsbD k || (k == n && outcome == .reject)) := fun k hk => by
        rw [hwalker]
        exact s.getLsbD_markReject verdict hk
      rw [hq]
      by_cases hl : last
      · have hend : s.slotQueued.nextSlot = s.slotQueued.queueStrokeVerdict o := by
          refine State.nextSlot_of_last (by rw [hstroke, ho]) ?_
          rw [hcur, hstroke]
          exact hl
        rw [hend, State.queueStrokeVerdict_lines, if_neg (fun h => hqueue h.1), s.slotQueued_lines, State.queueStrokeVerdict_walker,
          State.queueStrokeVerdict_stroke]
        refine ⟨rfl, fun h => absurd hroom h, fun _ => ⟨hmask, fun h => absurd hl h, fun _ => ⟨rfl, rfl, ?_, ?_⟩⟩⟩
        · rw [hstroke, ho]
        · rw [State.records_of_queue (State.queueStrokeVerdict_queue _ _), hrecords]
          simp [State.composeStroke, State.strokeNumber, hstroke, hchecker]
      · obtain ⟨k, hlow, hhigh, hactive, hfirst, hnext⟩ := State.nextSlot_of_more (s := s.slotQueued) (by
          rw [hcur, hstroke]
          exact hl)
        rw [hcur, hstroke] at hfirst
        rw [hcur] at hlow
        rw [hstroke] at hactive
        rw [hnext]
        refine ⟨s.slotQueued_lines, fun h => absurd hroom h, fun _ => ⟨hmask, fun _ => ?_, fun h => absurd h hl⟩⟩
        exact ⟨hrecords, rfl, hstroke, hlow, hhigh, hactive, hfirst, by rw [hrecipe]⟩
    · have hnot : ¬ s.entries Record.general < 14 := fun h => hr (s.generalFree_entries.mpr h)
      have hqueue' : s.writer.queue ≠ [] := fun h => hr (State.generalFree_of_empty h)
      rw [State.reportSlot, if_neg hr]
      exact ⟨by simp [hqueue'], fun _ => ⟨rfl, rfl, rfl, rfl⟩, fun h => absurd h hnot⟩

end Sys2Proof.Machine

/-! PROOFS. The winner of a grant and what the winner issues (R183, R184, R187, R190, R191). -/

namespace Sys2Proof.Machine

/-! ## Readiness -/

theorem exec_memoryGrant (s : State) : exec .memoryGrant s = .next s.grant := rfl

theorem State.unissued_isSome (s : State) (p : PortId) : (s.unissued p).isSome = true ↔
    ∃ r, (s.port p).status = .outstanding r false ∨ (s.port p).status = .abandoned r false := by
  unfold State.unissued
  split
  all_goals simp_all

theorem State.nextBeat_isSome (s : State) : s.nextBeat.isSome = true ↔ ∃ e ∈ s.remap.queue, e.issued = false := by
  rw [State.nextBeat, List.find?_isSome]
  simp

theorem State.writerBusy_eq_false_iff (s : State) : s.writerBusy = false ↔
    ∀ x ∈ s.arbiter.inflight, x.kind ≠ .record ∧ x.kind ≠ .status := by
  have hkind : ∀ k : TransactionKind, k.ofWriter = false ↔ k ≠ .record ∧ k ≠ .status := fun k => by
    cases k <;> simp [TransactionKind.ofWriter]
  simp [State.writerBusy, List.any_eq_false, ← hkind]

/-- The record at the producer index would meet the control region (R184). -/
theorem State.recordMeetsRegion_iff (s : State) : s.recordMeetsRegion = true ↔ ∃ i < 32,
    s.regionBase ≤ (ringBaseField s.recipe.shadow + s.writer.producer * 32 + i) % 2 ^ 32 ∧
      (ringBaseField s.recipe.shadow + s.writer.producer * 32 + i) % 2 ^ 32 < s.regionBase + 0x4000 := by
  have haddr : ∀ i, (toAddr ((s.ringAddr s.writer.producer).toNat + i)).toNat =
      (ringBaseField s.recipe.shadow + s.writer.producer * 32 + i) % 2 ^ 32 := fun i => by
    simp [State.ringAddr, toAddr, Nat.mod_add_mod]
  simp only [State.recordMeetsRegion, List.any_eq_true, List.mem_range, haddr, State.inRegion_iff]
  rfl

/-- The record's turn: a head record, a ring that is not full, and not a status block in its turn (R183, R187). -/
def State.recordsTurn (s : State) : Prop :=
  s.writer.queue ≠ [] ∧ s.ringFull = false ∧ ¬ (s.writer.dirty = true ∧ s.writer.lastIssued = .record)

theorem State.ringFull_eq_false_iff (s : State) : s.ringFull = false ↔
    (s.writer.producer + 1) % s.ringCapacity ≠ s.writer.consumer := by
  simp [State.ringFull]

/-- The report writer's choice after LOADING, with no write of its own outstanding (R183, R184, R187). -/
theorem State.writerChoice_free {s : State} (hl : s.stroke.state ≠ .loading) (hb : s.writerBusy = false) :
    (s.recordsTurn → s.writerChoice = if s.recordMeetsRegion then .toRegion else .record) ∧
      (¬ s.recordsTurn → s.writerChoice = if s.writer.dirty then .status else .nothing) := by
  have hturn : (!s.writer.queue.isEmpty && !s.ringFull && !(s.writer.dirty && s.writer.lastIssued == .record)) = true ↔
      s.recordsTurn := by
    cases hd : s.writer.dirty <;> simp [State.recordsTurn, hd, and_assoc]
  constructor
  · intro h
    simp only [State.writerChoice, hl, hb, if_false, if_pos (hturn.mpr h), Bool.false_eq_true]
  · intro h
    simp only [State.writerChoice, hl, hb, if_false, if_neg (mt hturn.mp h), Bool.false_eq_true]

theorem State.writerChoice_busy {s : State} (hl : s.stroke.state ≠ .loading) (hb : s.writerBusy = true) :
    s.writerChoice = .nothing := by
  simp [State.writerChoice, hl, hb]

theorem State.writerChoice_loading {s : State} (hl : s.stroke.state = .loading) :
    s.writerChoice = if s.writer.loadIssued < Config.loadReads then .loadRead else .nothing := by
  simp [State.writerChoice, hl]

theorem State.ready_report_loading {s : State} (hl : s.stroke.state = .loading) :
    s.ready .report = true ↔ s.writer.loadIssued < 145 := by
  rw [State.ready, State.writerChoice_loading hl]
  change _ ↔ s.writer.loadIssued < Config.loadReads
  split <;> simp [*]

/-- The report writer is ready after LOADING (R183, R184, R187, R190). -/
theorem State.ready_report {s : State} (hl : s.stroke.state ≠ .loading) : s.ready .report = true ↔
    s.writerBusy = false ∧ ((s.recordsTurn ∧ ¬ s.recordMeetsRegion = true) ∨ (¬ s.recordsTurn ∧ s.writer.dirty = true)) := by
  rw [State.ready]
  cases hb : s.writerBusy with
  | true => simp [State.writerChoice_busy hl hb]
  | false =>
    obtain ⟨hturn, hnot⟩ := State.writerChoice_free hl hb
    by_cases h : s.recordsTurn
    · rw [hturn h]
      cases s.recordMeetsRegion <;> simp [h]
    · rw [hnot h]
      cases s.writer.dirty <;> simp [h]

/-! ## The winner -/

/-- The first claimant of a list that is ready. -/
theorem find?_claimant_iff {l : List Claimant} (hl : l.length = 4) (f : Claimant → Bool) (w : Claimant) :
    l.find? f = some w ↔ ∃ d : Fin 4, l[d.val]? = some w ∧ f w = true ∧
      ∀ (e : Fin 4) (v : Claimant), e < d → l[e.val]? = some v → f v = false := by
  rw [List.find?_eq_some_iff_getElem]
  constructor
  · rintro ⟨hw, i, hi, heq, hbefore⟩
    refine ⟨⟨i, hl ▸ hi⟩, by rw [List.getElem?_eq_getElem hi, heq], hw, fun e v he hv => ?_⟩
    obtain ⟨hlt, rfl⟩ := List.getElem?_eq_some_iff.mp hv
    simpa using hbefore e.val he
  · rintro ⟨d, hd, hw, hbefore⟩
    obtain ⟨hlt, heq⟩ := List.getElem?_eq_some_iff.mp hd
    refine ⟨hw, d.val, hlt, heq, fun j hj => ?_⟩
    have hj4 : j < l.length := hj.trans hlt
    have := hbefore ⟨j, hl ▸ hj4⟩ l[j] hj (List.getElem?_eq_getElem hj4)
    simpa using this

theorem length_rotation (c : Claimant) : (rotation c).length = 4 := by cases c <;> rfl

/-- The circular order of the claimants after the pointer (R191). -/
theorem rotation_getElem? (i d : Fin 4) :
    let order : List Claimant := [.portA, .portS, .remap, .report]
    (rotation order[i])[d.val]? = order[(i.val + 1 + d.val) % 4]? := by
  revert i d
  decide

theorem State.grant_of_winner {s : State} {c : Claimant} (hlen : s.arbiter.inflight.length < 4) (hw : s.winner = some c) :
    s.grant = s.grantTo c := by
  have h : s.arbiter.inflight.length < Config.maxOutstanding := hlen
  simp [State.grant, h, hw]

/-- Settles O44. -/
theorem grantWinner : Obligations.GrantWinner := by
  intro s
  refine ⟨fun h => ?_, fun h => ?_, fun p c h => ?_, s.nextBeat_isSome, State.ready_report_loading, fun hl => ?_, fun hlen hr => ?_,
    fun hlow => ?_⟩
  · have hfull : ¬ s.arbiter.inflight.length < Config.maxOutstanding := Nat.not_lt.mpr h
    rw [exec_memoryGrant, State.grant, if_neg hfull]
  · simp [exec_memoryGrant, State.grant, h]
  · obtain ⟨rfl, rfl⟩ | ⟨rfl, rfl⟩ := h
    · exact s.unissued_isSome .a
    · exact s.unissued_isSome .s
  · intro recordsTurn meets
    have hturn : s.recordsTurn ↔ recordsTurn := by
      rw [State.recordsTurn, s.ringFull_eq_false_iff]
    rw [State.ready_report hl, s.writerBusy_eq_false_iff, s.recordMeetsRegion_iff, hturn]
  · exact if_pos ⟨hlen, hr⟩
  · intro order i hi w
    have hnot : ¬ (Config.highWater ≤ s.remap.queue.length ∧ s.ready .remap = true) := fun ⟨h1, h2⟩ => by
      rcases hlow with h | h
      · exact Nat.not_le.mpr h h1
      · rw [h2] at h
        contradiction
    rw [State.winner, if_neg hnot, hi, find?_claimant_iff (length_rotation _)]
    simp only [order, rotation_getElem?]

/-! ## What a grant issues -/

theorem markFirst_append {front : List RemapEntry} (e : RemapEntry) (back : List RemapEntry) (h : ∀ x ∈ front, x.issued = true)
    (he : e.issued = false) : markFirst (front ++ e :: back) = front ++ { e with issued := true } :: back := by
  induction front with
  | nil => simp [markFirst, he]
  | cons x xs ih =>
    rw [List.cons_append, markFirst, if_pos (h x (by simp)), ih fun y hy => h y (by simp [hy])]
    rfl

theorem State.nextBeat_append {s : State} {front back : List RemapEntry} {e : RemapEntry}
    (hq : s.remap.queue = front ++ e :: back) (h : ∀ x ∈ front, x.issued = true) (he : e.issued = false) : s.nextBeat = some e := by
  rw [State.nextBeat, hq, List.find?_eq_some_iff_append]
  exact ⟨by simp [he], front, back, rfl, fun x hx => by simp [h x hx]⟩

/-- Settles O45. -/
theorem grantIssuesTraffic : Obligations.GrantIssuesTraffic := by
  refine ⟨fun s p r c hpc hlen hw => ?_, fun s front back e hlen hw hq hfront he => ?_⟩
  · have hgrant : s.grant = (s.pointTo c).issuePort p := by
      rw [State.grant_of_winner hlen hw, State.grantTo_eq]
      obtain ⟨rfl, rfl⟩ | ⟨rfl, rfl⟩ := hpc <;> rfl
    have hport : ∀ x st, ({ s with arbiter := x }.port p) = s.port p ∧ (s.pointTo st).port p = s.port p := fun x st => by
      cases p <;> exact ⟨rfl, rfl⟩
    intro tx arb
    rw [exec_memoryGrant, hgrant]
    refine ⟨fun hs => ?_, fun hs => ?_⟩
    · simp only [State.issuePort, State.unissued, (hport arb c).2, hs, PortStatus.markIssued]
      cases p <;> rfl
    · simp only [State.issuePort, State.unissued, (hport arb c).2, hs, PortStatus.markIssued]
      cases p <;> rfl
  · have hbeat : (s.pointTo .remap).nextBeat = some e := State.nextBeat_append (s := s.pointTo .remap) hq hfront he
    have hmark : markFirst (s.pointTo .remap).remap.queue = front ++ { e with issued := true } :: back := by
      rw [show (s.pointTo .remap).remap.queue = _ from hq, markFirst_append e back hfront he]
    rw [exec_memoryGrant, State.grant_of_winner hlen hw, State.grantTo_eq]
    dsimp only
    rw [State.issueBeat, hbeat]
    dsimp only
    rw [hmark]
    rfl

/-- A claimant that wins is ready (R191). -/
theorem State.ready_of_winner {s : State} {c : Claimant} (h : s.winner = some c) : s.ready c = true := by
  unfold State.winner at h
  split at h
  · next hhigh => exact Option.some.inj h ▸ hhigh.2
  · exact List.find?_some h

theorem State.headIssued_eq {s : State} {e : ReportEntry} {es : List ReportEntry} (h : s.writer.queue = e :: es) :
    s.headIssued = { s with
      writer := { s.writer with queue := { e with issued := true } :: es, lastIssued := .record }
      walker := { s.walker with written := s.walker.written + if e.record.isPin then 1 else 0 } } := by
  unfold State.headIssued
  rw [h]
  dsimp only
  cases hp : e.record.isPin <;> simp

/-- Settles O46. -/
theorem grantIssuesReports : Obligations.GrantIssuesReports := by
  refine ⟨fun s hlen hw hl => ?_, fun s hlen hw hl => ?_⟩
  · intro tx
    obtain ⟨hbusy, hchoice⟩ := (State.ready_report hl).mp (State.ready_of_winner hw)
    obtain ⟨hturn, hnot⟩ := State.writerChoice_free hl hbusy
    have hgrant : s.grant = (s.pointTo .report).issueReport := by
      rw [State.grant_of_winner hlen hw, State.grantTo_eq]
    have hpoint : (s.pointTo .report).writerChoice = s.writerChoice := rfl
    rw [exec_memoryGrant, hgrant, State.issueReport, hpoint]
    refine ⟨fun e es hq hfull hdirty => ?_, fun hdirty hcase => ?_⟩
    · have ht : s.recordsTurn := ⟨by simp [hq], hfull, hdirty⟩
      obtain ⟨-, hmeets⟩ | ⟨h, -⟩ := hchoice
      · rw [hturn ht, if_neg hmeets]
        dsimp only
        rw [State.issueRecord, show (s.pointTo .report).writer.queue = _ from hq]
        dsimp only
        rw [State.headIssued_eq (s := s.pointTo .report) hq]
        rfl
      · exact absurd ht h
    · have ht : ¬ s.recordsTurn := fun ⟨h1, h2, h3⟩ => by
        obtain h | h | h := hcase
        · exact h1 h
        · rw [h2] at h
          contradiction
        · exact h3 ⟨hdirty, h⟩
      rw [hnot ht, if_pos hdirty]
      rfl
  · have hready := (State.ready_report_loading hl).mp (State.ready_of_winner hw)
    have hgrant : s.grant = (s.pointTo .report).issueReport := by
      rw [State.grant_of_winner hlen hw, State.grantTo_eq]
    have hpoint : (s.pointTo .report).writerChoice = s.writerChoice := rfl
    have hless : s.writer.loadIssued < Config.loadReads := hready
    rw [exec_memoryGrant, hgrant, State.issueReport, hpoint, State.writerChoice_loading hl, if_pos hless]
    exact ⟨hready, rfl⟩

end Sys2Proof.Machine

/-! PROOFS. The layouts of the formats: records, status block, recipe, plan and tag as sums of their fields (R145 to R152). -/

namespace Sys2Proof.Machine

/-! ## Values laid into a word -/

theorem toNat_place {v lo len : Nat} (h : lo + len ≤ 32) : (place v lo len).toNat = v % 2 ^ len * 2 ^ lo := by
  rw [place, BitVec.toNat_ofNat, Nat.mod_eq_of_lt]
  calc v % 2 ^ len * 2 ^ lo < 2 ^ len * 2 ^ lo := Nat.mul_lt_mul_of_pos_right (Nat.mod_lt _ (by positivity)) (by positivity)
    _ = 2 ^ (len + lo) := (pow_add 2 len lo).symm
    _ ≤ 2 ^ 32 := Nat.pow_le_pow_right (by decide) (by omega)

/-- A value laid above the bits of a word adds to it. -/
theorem toNat_or_place {w : Word} {v lo len : Nat} (hw : w.toNat < 2 ^ lo) (h : lo + len ≤ 32) :
    (w ||| place v lo len).toNat = w.toNat + v % 2 ^ len * 2 ^ lo := by
  rw [BitVec.toNat_or, toNat_place h, Nat.or_comm, Nat.mul_comm _ (2 ^ lo), ← Nat.two_pow_add_eq_or_of_lt hw, Nat.add_comm]

/-- A field in the low bits. -/
theorem toNat_place_low {v len : Nat} (h : len ≤ 32) : (place v 0 len).toNat = v % 2 ^ len := by
  rw [toNat_place (by omega), Nat.pow_zero, Nat.mul_one]

theorem toNat_place_low_lt {v len lo : Nat} (h : len ≤ 32) (hlo : len ≤ lo) : (place v 0 len).toNat < 2 ^ lo := by
  rw [toNat_place_low h]
  exact (Nat.mod_lt _ (by positivity)).trans_le (Nat.pow_le_pow_right (by decide) hlo)

/-- Two fields. -/
theorem toNat_place_two (a b : Nat) {la lo lb : Nat} (h1 : la ≤ lo) (h2 : lo + lb ≤ 32) :
    (place a 0 la ||| place b lo lb).toNat = a % 2 ^ la + b % 2 ^ lb * 2 ^ lo := by
  rw [toNat_or_place (toNat_place_low_lt (by omega) h1) h2, toNat_place_low (by omega)]

theorem toNat_place_two_lt (a b : Nat) {la lo lb hi : Nat} (h1 : la ≤ lo) (h2 : lo + lb ≤ hi) (h3 : hi ≤ 32) :
    (place a 0 la ||| place b lo lb).toNat < 2 ^ hi := by
  have hbit : ∀ x len lo, lo + len ≤ hi → x % 2 ^ len * 2 ^ lo < 2 ^ hi := fun x len lo h => by
    calc x % 2 ^ len * 2 ^ lo < 2 ^ len * 2 ^ lo := Nat.mul_lt_mul_of_pos_right (Nat.mod_lt _ (by positivity)) (by positivity)
      _ = 2 ^ (len + lo) := (pow_add 2 len lo).symm
      _ ≤ 2 ^ hi := Nat.pow_le_pow_right (by decide) (by omega)
  rw [BitVec.toNat_or, toNat_place (by omega), toNat_place (by omega)]
  exact Nat.or_lt_two_pow (hbit _ _ _ (by omega)) (hbit _ _ _ h2)

/-- Three fields. -/
theorem toNat_place_three (a b c : Nat) {la lo lb lo' lc : Nat} (h1 : la ≤ lo) (h2 : lo + lb ≤ lo') (h3 : lo' + lc ≤ 32) :
    (place a 0 la ||| place b lo lb ||| place c lo' lc).toNat = a % 2 ^ la + b % 2 ^ lb * 2 ^ lo + c % 2 ^ lc * 2 ^ lo' := by
  rw [toNat_or_place (toNat_place_two_lt a b h1 h2 (by omega)) h3, toNat_place_two a b h1 (by omega)]

/-! ## The codes fit their fields -/

theorem Record.code_lt (r : Record) : r.code < 16 := by cases r <;> simp [Record.code]
theorem RefusalReason.code_lt (r : RefusalReason) : r.code < 16 := by cases r <;> decide
theorem DetailKind.code_lt (k : DetailKind) : k.code < 16 := by cases k <;> decide
theorem StrokeOutcome.code_lt (o : StrokeOutcome) : o.code < 16 := by cases o <;> decide
theorem SlotOutcome.code_lt (o : SlotOutcome) : o.code < 4 := by cases o <;> decide
theorem faultCode_lt (k : Option FaultKind) : faultCode k < 16 := by
  cases k with
  | none => decide
  | some k => cases k <;> decide
theorem StrokeState.code_lt (k : StrokeState) : k.code < 8 := by cases k <;> decide
theorem ForceState.code_lt (k : ForceState) : k.code < 4 := by cases k <;> decide
theorem CommandResult.code_lt (k : CommandResult) : k.code < 8 := by cases k <;> decide
theorem Band.code_lt (b : Band) : b.code < 4 := by cases b <;> decide

/-! ## Records -/

/-- The header word (R151). -/
theorem recordHeader_toNat (r : Record) (lap : Bool) :
    (recordHeader r lap).toNat = r.code + 128 * lap.toNat + 65536 * r.strokeNumber.toNat := by
  have hcode := r.code_lt
  have hlap := lap.toNat_lt
  have hnumber := r.strokeNumber.isLt
  rw [recordHeader, toNat_place_three _ _ _ (by decide) (by decide) (by decide)]
  omega

/-- The i-th word of a record as it is written. -/
def Record.wordAt (r : Record) (lap : Bool) (written omitted : Nat) (i : Fin 8) : Word :=
  (r.words lap written omitted).getD i.val 0

theorem Record.words_eq_ofFn (r : Record) (lap : Bool) (written omitted : Nat) :
    r.words lap written omitted = List.ofFn (r.wordAt lap written omitted) := by
  cases r <;> rfl

/-! ## Fields of a word -/

theorem field_eq (w : Word) (lo len : Nat) : field w lo len = w.toNat / 2 ^ lo % 2 ^ len := by
  rw [field, BitVec.extractLsb'_toNat, Nat.shiftRight_eq_div_pow]

theorem toNat_extract_eq (w : Word) (lo len : Nat) : (w.extractLsb' lo len).toNat = w.toNat / 2 ^ lo % 2 ^ len := field_eq w lo len

theorem getLsbD_iff_div (w : Word) (i : Nat) : w.getLsbD i = true ↔ w.toNat / 2 ^ i % 2 ^ 1 = 1 := by
  rw [BitVec.getLsbD, Nat.testBit_eq_decide_div_mod_eq, decide_eq_true_eq, pow_one]

/-- A word is its four bytes, little-endian (R153). -/
theorem readWord_bytes (m : Memory) (a : Nat) : (m.readWord a).toNat = (m.readByte a).toNat + 2 ^ 8 * (m.readByte (a + 1)).toNat +
    2 ^ 16 * (m.readByte (a + 2)).toNat + 2 ^ 24 * (m.readByte (a + 3)).toNat := by
  have happend : ∀ {n k : Nat} (x : BitVec n) (y : BitVec k), (x ++ y).toNat = 2 ^ k * x.toNat + y.toNat := fun x y => by
    rw [BitVec.toNat_append, Nat.shiftLeft_eq, Nat.mul_comm, Nat.two_pow_add_eq_or_of_lt y.isLt]
  rw [Memory.readWord, happend, happend, happend]
  omega

/-! ## The tag -/

/-- A stamped word is the sum of the sample's low 24 bits and the tag's fields (R67, R145). -/
theorem stamp_toNat (w : Word) (t : Tag) : (stamp w t).toNat = w.toNat % 2 ^ 24 + t.zone % 2 ^ 4 * 2 ^ 24 + t.band.code * 2 ^ 28 +
    t.mark.toNat * 2 ^ 30 + t.newFault.toNat * 2 ^ 31 := by
  have hband := t.band.code_lt
  have hmark := t.mark.toNat_lt
  have hnew := t.newFault.toNat_lt
  have hlow : (w &&& 0x00FFFFFF#32).toNat = w.toNat % 2 ^ 24 := by
    rw [BitVec.toNat_and]
    exact Nat.and_two_pow_sub_one_eq_mod w.toNat 24
  have h1 : ((w &&& 0x00FFFFFF#32) ||| place t.zone 24 4).toNat = w.toNat % 2 ^ 24 + t.zone % 2 ^ 4 * 2 ^ 24 := by
    rw [toNat_or_place (by omega) (by decide), hlow]
  have h2 : ((w &&& 0x00FFFFFF#32) ||| place t.zone 24 4 ||| place t.band.code 28 2).toNat =
      w.toNat % 2 ^ 24 + t.zone % 2 ^ 4 * 2 ^ 24 + t.band.code * 2 ^ 28 := by
    rw [toNat_or_place (by omega) (by decide), h1]
    omega
  have h3 : ((w &&& 0x00FFFFFF#32) ||| place t.zone 24 4 ||| place t.band.code 28 2 ||| place t.mark.toNat 30 1).toNat =
      w.toNat % 2 ^ 24 + t.zone % 2 ^ 4 * 2 ^ 24 + t.band.code * 2 ^ 28 + t.mark.toNat * 2 ^ 30 := by
    rw [toNat_or_place (by omega) (by decide), h2]
    omega
  rw [stamp, toNat_or_place (by omega) (by decide), h3]
  omega

end Sys2Proof.Machine

/-! PROOFS. The obligation on the format layouts (R145 to R152). -/

namespace Sys2Proof.Machine

/-! ## Records -/

theorem refusalWords_layout (x : RefusalRecord) (lap : Bool) (written omitted : Nat) (hd : x.detailIndex < 65536) :
    let w := (Record.refusal x).wordAt lap written omitted
    (w 1).toNat = x.reason.code + 256 * x.detailKind.code + 65536 * x.detailIndex ∧ ∀ i : Fin 8, 2 ≤ i.val → w i = 0#32 := by
  have hreason := x.reason.code_lt
  have hkind := x.detailKind.code_lt
  refine ⟨?_, fun ⟨i, hi⟩ hlow => by interval_cases i <;> rfl⟩
  change (place x.reason.code 0 4 ||| place x.detailKind.code 8 4 ||| place x.detailIndex 16 16).toNat = _
  rw [toNat_place_three _ _ _ (by decide) (by decide) (by decide)]
  omega

theorem strokeWords_layout (x : StrokeVerdict) (lap : Bool) (written omitted : Nat) (h1 : x.stepsTaken < 65536)
    (h2 : x.samplesTaken < 2 ^ 32) (h3 : x.totalFailing < 65536) :
    let w := (Record.stroke x).wordAt lap written omitted
    (w 1).toNat = x.outcome.code + 256 * x.rejectMask.toNat + 65536 * x.gridWriteError.toNat ∧
      (w 2).toNat = x.stepsTaken ∧ (w 3).toNat = x.samplesTaken ∧ (w 4).toNat = x.totalFailing ∧
      (w 5).toNat = written % 65536 + 65536 * (omitted % 65536) ∧ w 6 = x.sumUsed ∧ w 7 = 0#32 := by
  have houtcome := x.outcome.code_lt
  have hmask := x.rejectMask.isLt
  have herror := x.gridWriteError.toNat_lt
  refine ⟨?_, ?_, ?_, ?_, ?_, rfl, rfl⟩
  · change (place x.outcome.code 0 4 ||| place x.rejectMask.toNat 8 4 ||| place x.gridWriteError.toNat 16 1).toNat = _
    rw [toNat_place_three _ _ _ (by decide) (by decide) (by decide)]
    omega
  · exact (toNat_place_low (by decide)).trans (Nat.mod_eq_of_lt h1)
  · exact (toNat_place_low (by decide)).trans (Nat.mod_eq_of_lt h2)
  · exact (toNat_place_low (by decide)).trans (Nat.mod_eq_of_lt h3)
  · exact (toNat_place_two _ _ (by decide) (by decide)).trans (by omega)

theorem slotWords_layout (x : SlotVerdict) (lap : Bool) (written omitted : Nat) (h1 : x.slot < 4) (h2 : x.pinsChecked < 65536)
    (h3 : x.pinsFailing < 65536) (h4 : x.allowance < 65536) :
    let w := (Record.slot x).wordAt lap written omitted
    (w 1).toNat = x.slot + 256 * x.outcome.code + 65536 * x.connectorCode.toNat ∧
      (w 2).toNat = x.pinsChecked + 65536 * x.pinsFailing ∧ (w 3).toNat = x.allowance ∧
      ∀ i : Fin 8, 4 ≤ i.val → w i = 0#32 := by
  have houtcome := x.outcome.code_lt
  have hcode := x.connectorCode.isLt
  refine ⟨?_, ?_, ?_, fun ⟨i, hi⟩ hlow => by interval_cases i <;> rfl⟩
  · change (place x.slot 0 2 ||| place x.outcome.code 8 2 ||| place x.connectorCode.toNat 16 16).toNat = _
    rw [toNat_place_three _ _ _ (by decide) (by decide) (by decide)]
    omega
  · exact (toNat_place_two _ _ (by decide) (by decide)).trans (by omega)
  · exact (toNat_place_low (by decide)).trans (Nat.mod_eq_of_lt h4)

theorem pinWords_layout (x : PinRecord) (lap : Bool) (written omitted : Nat) (h1 : x.slot < 4) (h2 : x.cell < 1024)
    (h3 : x.zoneReached < 16) (h4 : x.samplesChecked < 65536) (h5 : stepCode x.firstFaultStep < 65536)
    (h6 : stepCode x.entryStep < 65536) (h7 : stepCode x.seatStep < 65536) (h8 : stepCode x.peakStep < 65536) :
    let w := (Record.pin x).wordAt lap written omitted
    (w 1).toNat = x.slot + 65536 * x.cell ∧ (w 2).toNat = x.label.toNat + 65536 * x.zoneReached ∧
      (w 3).toNat = x.faults.toNat + 65536 * faultCode x.firstFault ∧
      (w 4).toNat = stepCode x.firstFaultStep + 65536 * x.samplesChecked ∧
      (w 5).toNat = stepCode x.entryStep + 65536 * stepCode x.seatStep ∧
      (w 6).toNat = x.peakForce.toNat + 65536 * stepCode x.peakStep ∧ w 7 = 0#32 := by
  have hlabel := x.label.isLt
  have hfaults := x.faults.isLt
  have hforce := x.peakForce.isLt
  have hkind := faultCode_lt x.firstFault
  refine ⟨?_, ?_, ?_, ?_, ?_, ?_, rfl⟩
  all_goals exact (toNat_place_two _ _ (by decide) (by decide)).trans (by omega)

/-! ## The status block -/

theorem State.statusWords_first (s : State) :
    (s.stroke.pendingPlan = none → (s.statusWords.getD 0 0).toNat = s.stroke.state.code) ∧
      ∀ p, s.stroke.pendingPlan = some p →
        (s.statusWords.getD 0 0).toNat = s.stroke.state.code + 256 + 65536 * (Plan.strokeNumber p).toNat := by
  have hstate := s.stroke.state.code_lt
  refine ⟨fun h => ?_, fun p h => ?_⟩
  · have hword : s.statusWords.getD 0 0 = place s.stroke.state.code 0 3 ||| place 0 8 1 ||| 0#32 := by
      simp [State.statusWords, h]
    rw [hword, BitVec.or_zero, toNat_place_two _ _ (by decide) (by decide)]
    omega
  · have hnumber := (Plan.strokeNumber p).isLt
    have hword : s.statusWords.getD 0 0 =
        place s.stroke.state.code 0 3 ||| place 1 8 1 ||| place (Plan.strokeNumber p).toNat 16 16 := by
      simp [State.statusWords, h]
    rw [hword, toNat_place_three _ _ _ (by decide) (by decide) (by decide)]
    omega

/-! ## The recipe -/

theorem zoneKind_iff (m : Memory) (n z : Nat) :
    (zoneKind m n z = .entry ↔ field (zoneWord m n z 0) 0 2 = 0) ∧ (zoneKind m n z = .travel ↔ field (zoneWord m n z 0) 0 2 = 1) ∧
      (zoneKind m n z = .seat ↔ field (zoneWord m n z 0) 0 2 = 2) ∧ (zoneKind m n z = .hold ↔ field (zoneWord m n z 0) 0 2 = 3) := by
  have hlt : field (zoneWord m n z 0) 0 2 < 4 := BitVec.isLt _
  unfold zoneKind
  generalize field (zoneWord m n z 0) 0 2 = v at hlt
  interval_cases v <;> decide

/-- Bits lo..lo + len - 1 of a word of the recipe. -/
def recipeBits (m : Memory) (a lo len : Nat) : Nat := (m.readWord a).toNat / 2 ^ lo % 2 ^ len

theorem field_recipe (m : Memory) {a b : Nat} (lo len : Nat) (h : a = b) : field (m.readWord a) lo len = recipeBits m b lo len := by
  rw [h, field_eq, recipeBits]

theorem getLsbD_recipe (m : Memory) {a b : Nat} (i : Nat) (h : a = b) :
    (m.readWord a).getLsbD i = true ↔ recipeBits m b i 1 = 1 := by
  rw [h, getLsbD_iff_div, recipeBits]

/-- The words of the recipe (R2 to R14, R145 to R148). -/
theorem recipe_layout (m : Memory) (n z c : Nat) (hz : 1 ≤ z) :
    let bits := recipeBits m
    let slot := 0x40 + 0x10 * n
    let profile := 0x100 + 0x90 * n
    let zone := profile + 0x10 * z
    let pin := 0x1400 + 4 * c
    (m.readWord c).toNat = (m.readByte c).toNat + 2 ^ 8 * (m.readByte (c + 1)).toNat +
      2 ^ 16 * (m.readByte (c + 2)).toNat + 2 ^ 24 * (m.readByte (c + 3)).toNat ∧
    (cellCount m = bits 0 0 32 ∧ landingBase m = bits 4 0 32 ∧ gridBase m = bits 8 0 32 ∧
      ringBaseField m = bits 0xC 0 32 ∧ ringCapacityField m = bits 0x10 0 32) ∧
    (firstCell m n = bits slot 0 10 ∧ lastCell m n = bits slot 16 10 ∧ (connectorCode m n).toNat = bits (slot + 4) 0 16 ∧
      allowance m n = bits (slot + 4) 16 11 ∧ (haltOnHalting m n = true ↔ bits (slot + 8) 0 1 = 1)) ∧
    (zoneCount m n = bits profile 0 8 ∧ (dropLimit m n).toNat = bits (profile + 4) 0 16 ∧
      (absoluteLimit m n).toNat = bits (profile + 4) 16 16) ∧
    ((zoneKind m n z = .entry ↔ bits zone 0 2 = 0) ∧ (zoneKind m n z = .travel ↔ bits zone 0 2 = 1) ∧
      (zoneKind m n z = .seat ↔ bits zone 0 2 = 2) ∧ (zoneKind m n z = .hold ↔ bits zone 0 2 = 3) ∧
      (forgiving m n z = true ↔ bits zone 8 1 = 1) ∧ tolerance m n z = bits zone 16 8 ∧
      firstStep m n z = bits (zone + 4) 0 16 ∧ lastStep m n z = bits (zone + 4) 16 16 ∧
      (floorOf m n z).toNat = bits (zone + 8) 0 16 ∧ (ceilingOf m n z).toNat = bits (zone + 8) 16 16) ∧
    ((pinLabel m c).toNat = bits pin 0 16 ∧ pinProfile m c = bits pin 16 5 ∧ (pinChecked m c = true ↔ bits pin 24 1 = 1)) := by
  intro bits slot profile zone pin
  have hgeometry : ∀ i, geometryWord m i = bits (4 * i) 0 32 := fun i => by
    have hlt := (m.readWord (4 * i)).isLt
    simp only [geometryWord, bits, recipeBits]
    omega
  have hslot : ∀ i, 0x40 + n * 0x10 + 4 * i = slot + 4 * i := fun i => by omega
  have hprofile : ∀ i, profileOffset n + i = profile + i := fun i => by
    unfold profileOffset
    omega
  have hzone : ∀ i, profileOffset n + 0x10 + (z - 1) * 0x10 + 4 * i = zone + 4 * i := fun i => by
    unfold profileOffset
    omega
  have hkind : field (zoneWord m n z 0) 0 2 = bits zone 0 2 := field_recipe m _ _ (hzone 0)
  refine ⟨readWord_bytes m c, ⟨hgeometry 0, hgeometry 1, hgeometry 2, hgeometry 3, hgeometry 4⟩,
    ⟨field_recipe m _ _ (hslot 0), field_recipe m _ _ (hslot 0), field_recipe m _ _ (hslot 1), field_recipe m _ _ (hslot 1),
      getLsbD_recipe m _ (hslot 2)⟩,
    ⟨field_recipe m _ _ (hprofile 0), field_recipe m _ _ (hprofile 4), field_recipe m _ _ (hprofile 4)⟩,
    ⟨?_, ?_, ?_, ?_, getLsbD_recipe m _ (hzone 0), field_recipe m _ _ (hzone 0), field_recipe m _ _ (hzone 1),
      field_recipe m _ _ (hzone 1), field_recipe m _ _ (hzone 2), field_recipe m _ _ (hzone 2)⟩,
    ⟨field_recipe m _ _ rfl, field_recipe m _ _ rfl, getLsbD_recipe m _ rfl⟩⟩
  all_goals rw [← hkind]
  · exact (zoneKind_iff m n z).1
  · exact (zoneKind_iff m n z).2.1
  · exact (zoneKind_iff m n z).2.2.1
  · exact (zoneKind_iff m n z).2.2.2

/-! ## The plan -/

/-- The words of a plan record (R149). -/
theorem plan_layout (p : Plan) (n : Nat) (hn : n < 4) :
    let bits : Fin 8 → Nat → Nat → Nat := fun i lo len => (p[i]).toNat / 2 ^ lo % 2 ^ len
    (Plan.strokeNumber p).toNat = bits 0 0 16 ∧ Plan.source p = (if bits 0 16 1 = 1 then .s else .a) ∧
    (Plan.cellMajor p = true ↔ bits 0 17 1 = 1) ∧ (Plan.reversed p = true ↔ bits 0 18 1 = 1) ∧
    (Plan.allPins p = true ↔ bits 0 19 1 = 1) ∧ (Plan.omitPolicy p = true ↔ bits 0 20 1 = 1) ∧
    (Plan.requireFreeze p = true ↔ bits 0 21 1 = 1) ∧ Plan.stepCount p = bits 1 0 16 ∧
    (Plan.active p n = true ↔ bits 1 (16 + n) 1 = 1) ∧ Plan.armLimit p = bits 2 0 16 ∧
    Plan.stallLimit p = bits 2 16 16 ∧ Plan.haltThreshold p = bits 3 0 16 ∧ (Plan.expectedSum p).toNat = bits 4 0 32 := by
  intro bits
  have hbit : ∀ i k, (Plan.word p i).getLsbD k = true ↔ bits i k 1 = 1 := fun i k => getLsbD_iff_div _ k
  have hfield : ∀ i lo len, field (Plan.word p i) lo len = bits i lo len := fun i lo len => field_eq _ lo len
  have hwhole : (Plan.expectedSum p).toNat = bits 4 0 32 := by
    have hlt := (Plan.word p 4).isLt
    have h := hfield 4 0 32
    rw [field_eq] at h
    rw [← h, Plan.expectedSum]
    omega
  refine ⟨hfield 0 0 16, ?_, hbit 0 17, hbit 0 18, hbit 0 19, hbit 0 20, hbit 0 21, hfield 1 0 16, ?_, hfield 2 0 16, hfield 2 16 16,
    hfield 3 0 16, hwhole⟩
  · simp only [Plan.source, ← hbit]
  · rw [← hbit, Plan.active, Plan.slotMask, BitVec.getLsbD_extractLsb', decide_eq_true hn, Bool.true_and]

/-! ## The tag -/

/-- The fields of a stamped word (R67, R145). -/
theorem stamp_layout (w : Word) (t : Tag) (ht : t.zone < 16) :
    (stamp w t).extractLsb' 0 24 = w.extractLsb' 0 24 ∧ ((stamp w t).extractLsb' 24 4).toNat = t.zone ∧
      ((stamp w t).extractLsb' 28 2).toNat = (match t.band with | .notChecked => 0 | .inBand => 1 | .below => 2 | .above => 3) ∧
      (stamp w t).getLsbD 30 = t.mark ∧ (stamp w t).getLsbD 31 = t.newFault := by
  have hstamp := stamp_toNat w t
  have hband := t.band.code_lt
  have hmark := t.mark.toNat_lt
  have hnew := t.newFault.toNat_lt
  have hbit : ∀ (b : Bool), b.toNat = 1 ↔ b = true := fun b => by cases b <;> decide
  refine ⟨stamp_low w t, ?_, Eq.trans (b := t.band.code) ?_ (by cases t.band <;> rfl), ?_, ?_⟩
  · rw [toNat_extract_eq, hstamp]
    omega
  · rw [toNat_extract_eq, hstamp]
    omega
  · rw [Bool.eq_iff_iff, getLsbD_iff_div, hstamp, ← hbit]
    omega
  · rw [Bool.eq_iff_iff, getLsbD_iff_div, hstamp, ← hbit]
    omega

/-! ## The obligation -/

/-- Settles O47. -/
theorem formatLayouts : Obligations.FormatLayouts := by
  refine ⟨fun r lap written omitted => ⟨r.wordAt lap written omitted, r.words_eq_ofFn lap written omitted, ?_⟩,
    by decide, fun s hp hc => ⟨fun i => s.statusWords.getD i.val 0, rfl, ?_⟩, fun m n z c hz => ?_, fun p n hn => ?_, fun w t ht => ?_⟩
  · refine ⟨?_, fun x hr hd => ?_, fun x hr h1 h2 h3 => ?_, fun x hr h1 h2 h3 h4 => ?_, fun x hr h1 h2 h3 h4 h5 h6 h7 h8 => ?_⟩
    · have hheader : r.wordAt lap written omitted 0 = recordHeader r lap := by cases r <;> rfl
      rw [hheader, recordHeader_toNat]
      cases r <;> rfl
    · exact hr ▸ refusalWords_layout x lap written omitted hd
    · exact hr ▸ strokeWords_layout x lap written omitted h1 h2 h3
    · exact hr ▸ slotWords_layout x lap written omitted h1 h2 h3 h4
    · subst hr
      obtain ⟨g1, g2, g3, g4, g5, g6, g7⟩ := pinWords_layout x lap written omitted h1 h2 h3 h4 h5 h6 h7 h8
      exact ⟨g1, g2, g3, g4, g5, g6, g7⟩
  · obtain ⟨h0, h1⟩ := s.statusWords_first
    have hlow : ∀ {v len : Nat}, len ≤ 32 → v < 2 ^ len → (place v 0 len).toNat = v := fun h hv =>
      (toNat_place_low h).trans (Nat.mod_eq_of_lt hv)
    have hnumber := (Plan.strokeNumber s.stroke.latched).isLt
    refine ⟨h0, h1, hlow (by decide) hnumber, ?_, hlow (by decide) s.lines.flags.isLt, hlow (by decide) s.lines.enables.isLt, ?_,
      hlow (by decide) hc, rfl, ?_, rfl, rfl, rfl, fun ⟨i, hi⟩ hlow => by interval_cases i <;> rfl⟩
    · have hprotection := s.protection.isLt
      have hlatch := s.lines.haltLatch.toNat_lt
      have hforce := s.lines.force.code_lt
      exact (toNat_place_three _ _ _ (by decide) (by decide) (by decide)).trans (by omega)
    · have hlap := s.writer.lap.toNat_lt
      exact (toNat_place_two _ _ (by decide) (by decide)).trans (by omega)
    · exact hlow (by decide) s.writer.cmdResult.code_lt
  · exact recipe_layout m n z c hz
  · exact plan_layout p n hn
  · exact stamp_layout w t ht

end Sys2Proof.Machine

/-! PROOFS. The answer to a status write, and the answers that a warm reset has made void (R185, R187, R188, R195). -/

namespace Sys2Proof.Machine

/-! ## Taking up the head -/

/-- The head record waits on the full ring and has not been marked so, the report writer being free to write (R185). -/
def State.headWaits (s : State) : Prop :=
  s.writer.queue ≠ [] ∧ s.writerBusy = false ∧ s.ringFull = true ∧ s.writer.waitMarked = false

theorem State.takeUpHead_of_waits {s : State} (h : s.headWaits) :
    s.takeUpHead = ({ s with writer := { s.writer with waitMarked := true } }).setFlag .ringWait := by
  obtain ⟨h1, h2, h3, h4⟩ := h
  simp [State.takeUpHead, h1, h2, h3, h4]

theorem State.takeUpHead_of_not_waits {s : State} (h : ¬ s.headWaits) : s.takeUpHead = s := by
  refine if_neg fun h' => h ?_
  simpa [State.headWaits, and_assoc] using h'

theorem State.flagSet_takeUpHead (s : State) (f : EventFlag) : s.takeUpHead.flagSet f = true ↔
    s.flagSet f = true ∨ (s.headWaits ∧ f = .ringWait) := by
  by_cases h : s.headWaits
  · rw [State.takeUpHead_of_waits h, State.flagSet_setFlag, Bool.or_eq_true, decide_eq_true_eq]
    simp [h, State.flagSet]
  · rw [State.takeUpHead_of_not_waits h]
    simp [h]

/-! ## A notice -/

theorem State.notice_of_noticed {s : State} {b : BitVec 9} (h : s.rose b = true ∧ s.stroke.state = .arming) :
    s.notice b = s.abandonArming := if_pos h

theorem State.notice_of_unnoticed {s : State} {b : BitVec 9} (h : ¬ (s.rose b = true ∧ s.stroke.state = .arming)) :
    s.notice b = s := if_neg h

/-! ## The answer -/

theorem State.oldest_of_kind {s : State} {x : Transaction} {rest : List Transaction} {f : TransactionKind → Bool}
    (hx : s.arbiter.inflight = x :: rest) (hf : f x.kind = true) : s.oldest f = some x := by
  simp [State.oldest, hx, hf]

theorem State.popAnswered_eq {s : State} {x : Transaction} {rest : List Transaction} (hx : s.arbiter.inflight = x :: rest) :
    s.popAnswered = { s with arbiter := { s.arbiter with inflight := rest } } := by
  simp [State.popAnswered, hx]

theorem State.memoryError_eq (s : State) (a : Word) : s.memoryError a = { s with
    writer := { s.writer with memErrAddr := a, dirty := s.writer.dirty || a != s.writer.memErrAddr } } := by
  rw [State.memoryError, State.dirtyIf_eq]

/-- MEMERR with its address (R187, R188). -/
theorem State.setFlag_memoryError (s : State) (a : Word) : (s.memoryError a).setFlag .memerr = { s with
    writer := { s.writer with
      memErrAddr := a, dirty := s.writer.dirty || !s.flagSet .memerr || a != s.writer.memErrAddr }
    lines := { s.lines with flags := s.lines.flags ||| 0x80#9 } } := by
  have hflag : (s.memoryError a).flagSet .memerr = s.flagSet .memerr := by simp [State.flagSet]
  have hbit : BitVec.twoPow 9 EventFlag.memerr.bit = 0x80#9 := by decide
  rw [State.setFlag_eq, hflag, hbit, State.memoryError_eq]
  simp only [Bool.or_assoc, Bool.or_comm (!_)]

/-- The error of a status write, before the head is taken up (R188). -/
def State.statusFailed (s : State) (okay : Bool) : State := if okay then s else (s.memoryError s.statusAddr).setFlag .memerr

theorem State.completeStatus_eq (s : State) (okay : Bool) :
    s.completeStatus okay = (s.statusFailed okay).takeUpHead.notice s.lines.flags := rfl

theorem State.statusFailed_false (s : State) : s.statusFailed false = { s with
    writer := { s.writer with
      memErrAddr := s.statusAddr
      dirty := s.writer.dirty || !s.flagSet .memerr || s.statusAddr != s.writer.memErrAddr }
    lines := { s.lines with flags := s.lines.flags ||| 0x80#9 } } := by
  rw [State.statusFailed, if_neg (by decide), State.setFlag_memoryError]

theorem State.headWaits_statusFailed (s : State) (okay : Bool) : (s.statusFailed okay).headWaits ↔ s.headWaits := by
  cases okay
  · rw [State.statusFailed_false]
    exact Iff.rfl
  · exact Iff.rfl

theorem State.flagSet_statusFailed (s : State) (okay : Bool) (f : EventFlag) :
    (s.statusFailed okay).flagSet f = true ↔ s.flagSet f = true ∨ (okay = false ∧ f = .memerr) := by
  cases okay
  · rw [State.statusFailed, if_neg (by decide), State.flagSet_setFlag, Bool.or_eq_true, decide_eq_true_eq]
    simp [State.flagSet]
  · simp [State.statusFailed]

/-- The flags that rise while enabled with the answer to a status write (R138, R185, R188). -/
theorem State.rose_completeStatus (s : State) (okay : Bool) : (s.statusFailed okay).takeUpHead.rose s.lines.flags = true ↔
    (s.headWaits ∧ s.flagSet .ringWait = false ∧ s.lines.enables.getLsbD 5 = true) ∨
      (okay = false ∧ s.flagSet .memerr = false ∧ s.lines.enables.getLsbD 7 = true) := by
  have henables : (s.statusFailed okay).takeUpHead.lines.enables = s.lines.enables := by
    cases okay <;> simp [State.statusFailed]
  simp only [State.rose_iff, State.flagSet_takeUpHead, State.headWaits_statusFailed, State.flagSet_statusFailed, henables]
  constructor
  · rintro ⟨f, (hset | ⟨hokay, rfl⟩) | ⟨hwaits, rfl⟩, hclear, hen⟩
    · exact absurd (hset.symm.trans hclear) (by decide)
    · exact .inr ⟨hokay, hclear, hen⟩
    · exact .inl ⟨hwaits, hclear, hen⟩
  · rintro (⟨hwaits, hclear, hen⟩ | ⟨hokay, hclear, hen⟩)
    · exact ⟨.ringWait, .inr ⟨hwaits, rfl⟩, hclear, hen⟩
    · exact ⟨.memerr, .inl (.inr ⟨hokay, rfl⟩), hclear, hen⟩

/-- The conditions of a notice with the answer to a status write (R91, R138). -/
def State.statusNoticed (s : State) (okay : Bool) : Prop :=
  s.stroke.state = .arming ∧
    ((s.headWaits ∧ s.flagSet .ringWait = false ∧ s.lines.enables.getLsbD 5 = true) ∨
      (okay = false ∧ s.flagSet .memerr = false ∧ s.lines.enables.getLsbD 7 = true))

@[simp] theorem State.statusFailed_keeps (s : State) (okay : Bool) :
    (s.statusFailed okay).stroke = s.stroke ∧ (s.statusFailed okay).writer.queue = s.writer.queue ∧
      (s.statusFailed okay).checker = s.checker ∧ (s.statusFailed okay).remap = s.remap := by
  cases okay <;> simp [State.statusFailed]

theorem State.noticed_completeStatus (s : State) (okay : Bool) :
    ((s.statusFailed okay).takeUpHead.rose s.lines.flags = true ∧ (s.statusFailed okay).takeUpHead.stroke.state = .arming) ↔
      s.statusNoticed okay := by
  rw [s.rose_completeStatus okay, and_comm]
  simp [State.statusNoticed]

/-- An answer to a status write that gives no notice. -/
theorem State.completeStatus_quiet {s : State} {okay : Bool} (h : ¬ s.statusNoticed okay) :
    (¬ s.headWaits → s.completeStatus okay = s.statusFailed okay) ∧
      (s.headWaits → s.completeStatus okay =
        ({ s.statusFailed okay with writer := { (s.statusFailed okay).writer with waitMarked := true } }).setFlag .ringWait) := by
  rw [State.completeStatus_eq, State.notice_of_unnoticed (mt (s.noticed_completeStatus okay).mp h)]
  exact ⟨fun hw => State.takeUpHead_of_not_waits (mt (s.headWaits_statusFailed okay).mp hw),
    fun hw => State.takeUpHead_of_waits ((s.headWaits_statusFailed okay).mpr hw)⟩

theorem State.statusFailed_true (s : State) : s.statusFailed true = s := rfl

theorem State.flagSet_waitMarked (s : State) (b : Bool) (f : EventFlag) :
    ({ s with writer := { s.writer with waitMarked := b } } : State).flagSet f = s.flagSet f := rfl

theorem State.statusAddr_eq (s : State) : s.statusAddr = toAddr (s.regionBase + 0x2480) := rfl

/-- A failed status write with the head record taken up (R185, R188). -/
theorem State.statusFailed_waits (s : State) :
    ({ s.statusFailed false with writer := { (s.statusFailed false).writer with waitMarked := true } }).setFlag .ringWait = { s with
      writer := { s.writer with
        waitMarked := true
        memErrAddr := s.statusAddr
        dirty := s.writer.dirty || !s.flagSet .memerr || s.statusAddr != s.writer.memErrAddr || !s.flagSet .ringWait }
      lines := { s.lines with flags := s.lines.flags ||| 0xA0#9 } } := by
  have hbits : ∀ v : BitVec 9, v ||| 0x80#9 ||| BitVec.twoPow 9 EventFlag.ringWait.bit = v ||| 0xA0#9 := fun v => by
    rw [BitVec.or_assoc]
    exact congrArg _ (by decide)
  have hring : ({ s.statusFailed false with writer := { (s.statusFailed false).writer with waitMarked := true } } : State).flagSet
      .ringWait = s.flagSet .ringWait := by
    rw [State.flagSet_waitMarked, Bool.eq_iff_iff, State.flagSet_statusFailed]
    exact or_iff_left fun h => absurd h.2 (by decide)
  rw [State.setFlag_eq, hring, State.statusFailed_false]
  dsimp only
  rw [hbits]

/-- An answer to a status write that gives a notice abandons the arming (R91, R138). -/
theorem State.completeStatus_noticed {s : State} {okay : Bool} (ho : s.owedOk) (h : s.statusNoticed okay) :
    s.abandonedTo (s.completeStatus okay) ∧ (s.headWaits → (s.completeStatus okay).flagSet .ringWait = true) ∧
      (okay = false → (s.completeStatus okay).flagSet .memerr = true ∧
        (s.completeStatus okay).writer.memErrAddr = s.statusAddr) := by
  rw [State.completeStatus_eq, State.notice_of_noticed ((s.noticed_completeStatus okay).mpr h)]
  refine ⟨State.abandonedTo_of ho (u := (s.statusFailed okay).takeUpHead) (by simp) (by simp) rfl rfl (by simp [State.abandonArming])
    (by simp [State.abandonArming]), fun hw => ?_, fun hf => ⟨?_, ?_⟩⟩
  · refine State.flagSet_refuseArming _ ?_
    rw [State.flagSet_takeUpHead, State.headWaits_statusFailed]
    exact .inr ⟨hw, rfl⟩
  · refine State.flagSet_refuseArming _ ?_
    rw [State.flagSet_takeUpHead, State.flagSet_statusFailed]
    exact .inl (.inr ⟨hf, rfl⟩)
  · subst hf
    rw [State.statusFailed_false]
    simp [State.abandonArming]

/-- The status write whose answer comes is completed, or void after a warm reset (R192, R195). -/
theorem exec_statusWriteComplete {s : State} {x : Transaction} {rest : List Transaction} (hx : s.arbiter.inflight = x :: rest)
    (hk : x.kind = .status) (okay : Bool) : exec (.statusWriteComplete okay) s =
      .next (if x.discard then { s with arbiter := { s.arbiter with inflight := rest } }
        else ({ s with arbiter := { s.arbiter with inflight := rest } } : State).completeStatus okay) := by
  have hold : s.oldest (· == .status) = some x := State.oldest_of_kind hx (by simp [hk])
  change execStatusWriteComplete okay s = _
  simp only [execStatusWriteComplete, hold, State.popAnswered_eq hx]

/-- The record write whose answer comes is completed, or void after a warm reset (R192, R195). -/
theorem exec_recordWriteComplete {s : State} {x : Transaction} {rest : List Transaction} (hx : s.arbiter.inflight = x :: rest)
    (hk : x.kind = .record) (okay first : Bool) : exec (.recordWriteComplete okay first) s =
      .next (if x.discard then { s with arbiter := { s.arbiter with inflight := rest } }
        else ({ s with arbiter := { s.arbiter with inflight := rest } } : State).completeRecord x.request.addr okay x.advances first) := by
  have hold : s.oldest (· == .record) = some x := State.oldest_of_kind hx (by simp [hk])
  change execRecordWriteComplete okay first s = _
  simp only [execRecordWriteComplete, hold, State.popAnswered_eq hx]

/-- Settles O52. -/
theorem statusAndDiscardedAnswers : Obligations.StatusAndDiscardedAnswers := by
  refine ⟨fun s x rest hx hk hd hrest => ?_, fun s x rest okay first hx hd => ⟨fun hk => ?_, fun hk => ?_⟩⟩
  · intro u addr waits rises
    have hbase : u.regionBase = s.regionBase := rfl
    have haddr : u.statusAddr = addr := by rw [State.statusAddr_eq, hbase]
    have hbusy : u.writerBusy = false := by
      simp only [State.writerBusy, List.any_eq_false]
      exact fun y hy => by simp [hrest y hy]
    have hwaits : u.headWaits ↔ waits :=
      ⟨fun ⟨h1, _, h3, h4⟩ => ⟨h1, h3, h4⟩, fun ⟨h1, h3, h4⟩ => ⟨h1, hbusy, h3, h4⟩⟩
    have hrises : ∀ okay, u.statusNoticed okay ↔ rises okay := fun okay => by
      rw [State.statusNoticed, hwaits]
      exact Iff.rfl
    have hexec : ∀ okay, exec (.statusWriteComplete okay) s = .next (u.completeStatus okay) := fun okay => by
      rw [exec_statusWriteComplete hx hk, if_neg (by simp [hd])]
    have hquiet := fun okay (h : ¬ rises okay) => State.completeStatus_quiet (mt (hrises okay).mp h)
    refine ⟨fun hw => ?_, fun hw hr => ?_, fun hw hr => ?_, fun hw hr => ?_, fun okay hr ho => ?_⟩
    · have hr : ¬ rises true := fun ⟨_, h⟩ => h.elim (fun h => hw h.1) fun h => absurd h.1 (by decide)
      rw [hexec, (hquiet true hr).1 (mt hwaits.mp hw), State.statusFailed_true]
    · rw [hexec, (hquiet true hr).2 (hwaits.mpr hw), State.statusFailed_true, State.setFlag_eq, State.flagSet_waitMarked]
      rfl
    · rw [hexec, (hquiet false hr).1 (mt hwaits.mp hw), State.statusFailed_false, haddr]
      clear_value addr
      rfl
    · rw [hexec, (hquiet false hr).2 (hwaits.mpr hw), State.statusFailed_waits, haddr]
      clear_value addr
      rfl
    · obtain ⟨habandoned, hring, hmem⟩ := State.completeStatus_noticed (s := u) ho ((hrises okay).mpr hr)
      exact ⟨_, hexec okay, habandoned, fun hw => hring (hwaits.mpr hw), hmem⟩
  · rw [exec_recordWriteComplete hx hk, if_pos hd]
  · rw [exec_statusWriteComplete hx hk, if_pos hd]

end Sys2Proof.Machine

/-! PROOFS. The answer to a read of the power-on load (R154, R156 to R158). -/

namespace Sys2Proof.Machine

/-! ## A line in a buffer -/

/-- The bytes outside a write are those before it. -/
theorem readByte_applyBeats_ne (m : Memory) {off c : Nat} (bs : List Beat) (h : c < off ∨ off + 4 * bs.length ≤ c) :
    (applyBeats m off bs).readByte c = m.readByte c := by
  induction bs generalizing m off with
  | nil => rfl
  | cons b bs ih =>
    simp only [List.length_cons] at h
    rw [applyBeats, ih _ (by omega), Memory.readByte_writeBeat_ne m off b c (by omega)]

/-- A line of whole words reads back. -/
theorem readWord_applyBeats_full (m : Memory) (off : Nat) {ws : List Word} (hm : m.wf = true) {i : Nat} (hi : i < ws.length) :
    (applyBeats m off (ws.map fullBeat)).readWord (off + 4 * i) = ws[i] := by
  induction ws generalizing m off i with
  | nil => exact absurd hi (Nat.not_lt_zero i)
  | cons w ws ih =>
    rw [List.map_cons, applyBeats]
    cases i with
    | zero =>
      rw [readWord_applyBeats_ne _ _ (by omega)]
      exact Memory.readWord_writeBeat_full m off w hm
    | succ i =>
      have h := ih (m.writeBeat off (fullBeat w)) (off + 4) (Memory.writeBeat_wf m off _ hm) (i := i) (by simpa using hi)
      rw [show off + 4 * (i + 1) = off + 4 + 4 * i by omega, h]
      rfl

theorem loadWords_getElem (okay : Bool) (data : LineData) (i : Nat) (hi : i < 16) :
    (loadWords okay data)[i]'(by rw [loadWords_length]; exact hi) = if okay then data[i] else 0#32 := by
  cases okay with
  | false => exact List.getElem_replicate _
  | true => simp [loadWords]

/-! ## The answer -/

theorem exec_loadReadAnswer {s : State} {x : Transaction} {rest : List Transaction} {line : Nat}
    (hx : s.arbiter.inflight = x :: rest) (hk : x.kind = .loadRead line) (okay : Bool) (data : LineData) :
    exec (.loadReadAnswer okay data) s =
      .next (({ s with arbiter := { s.arbiter with inflight := rest } } : State).loadAnswer line okay data) := by
  have hold : s.oldest TransactionKind.isLoad = some x := State.oldest_of_kind hx (by rw [hk]; rfl)
  change execLoadReadAnswer okay data s = _
  simp only [execLoadReadAnswer, hold, hk, State.popAnswered_eq hx]

/-- One more answer of the load is counted (R158). -/
def State.countAnswer (s : State) : State := { s with writer := { s.writer with loadAnswered := s.writer.loadAnswered + 1 } }

theorem State.countAnswer_keeps (s : State) (f : EventFlag) :
    s.countAnswer.flagSet f = s.flagSet f ∧ s.countAnswer.writer.memErrAddr = s.writer.memErrAddr := ⟨rfl, rfl⟩

theorem State.loadStored_false (s : State) (line : Nat) (data : LineData) : s.loadStored line false data =
    (((s.storeLine line (loadWords false data)).memoryError (s.loadAddr line)).raise .memerr).countAnswer := by
  unfold State.loadStored State.countAnswer
  simp only [Bool.false_eq_true, if_false]

/-- A failed read of the load raises MEMERR with its address (R157, R188). -/
theorem State.loadStored_failed {s : State} (hs : s.stroke.state = .loading) (line : Nat) (data : LineData) :
    (s.loadStored line false data).flagSet .memerr = true ∧ (s.loadStored line false data).writer.memErrAddr = s.loadAddr line := by
  have hraise : ((s.storeLine line (loadWords false data)).memoryError (s.loadAddr line)).raise .memerr =
      ((s.storeLine line (loadWords false data)).memoryError (s.loadAddr line)).setFlag .memerr :=
    State.raise_of_not_arming (by simp [hs]) _
  rw [State.loadStored_false, hraise, (State.countAnswer_keeps _ .memerr).1, (State.countAnswer_keeps _ .memerr).2,
    State.flagSet_setFlag]
  exact ⟨by simp, by simp⟩

/-- What the load's answers leave. -/
theorem State.loadStored_frame (s : State) (line : Nat) (okay : Bool) (data : LineData) :
    (s.loadStored line okay data).recipe = (s.storeLine line (loadWords okay data)).recipe ∧
      (s.loadStored line okay data).remap = s.remap ∧ (s.loadStored line okay data).checker = s.checker ∧
      (s.loadStored line okay data).arbiter = s.arbiter := by
  unfold State.loadStored
  dsimp only
  split <;> simp

/-- The end of the load is its last answer (R158). -/
theorem State.endLoad_spec {s : State} (hs : s.stroke.state = .loading) :
    s.endLoad.recipe = s.recipe ∧ s.endLoad.remap = s.remap ∧ s.endLoad.checker = s.checker ∧ s.endLoad.arbiter = s.arbiter ∧
      s.endLoad.writer.loadAnswered = s.writer.loadAnswered ∧ s.endLoad.writer.queue = s.writer.queue ∧
      s.endLoad.writer.memErrAddr = s.writer.memErrAddr ∧ (∀ f, s.flagSet f = true → s.endLoad.flagSet f = true) ∧
      (s.writer.loadAnswered = 145 → s.endLoad.stroke.state = .idle ∧ s.endLoad.flagSet .loaded = true ∧
        s.endLoad.writer.dirty = true) ∧
      (s.writer.loadAnswered ≠ 145 → s.endLoad.stroke.state = .loading) := by
  have hlast : Config.loadReads = 145 := rfl
  obtain ⟨hn, he⟩ | ⟨hn, he⟩ := State.endLoad_cases hs
  · rw [he]
    exact ⟨rfl, rfl, rfl, rfl, rfl, rfl, rfl, fun _ h => h, fun h => absurd (h.trans hlast.symm) hn, fun _ => hs⟩
  · have hflag : ∀ f, (((s.setFlag .loaded).enter .idle).markDirty).flagSet f = (s.flagSet f || decide (f = .loaded)) := fun f => by
      rw [← State.flagSet_setFlag]
      simp [State.flagSet, State.enter]
    rw [he]
    refine ⟨by simp, by simp, by simp, by simp, by simp, by simp, by simp, fun f hf => ?_, fun _ => ⟨?_, ?_, rfl⟩, fun h => ?_⟩
    · rw [hflag, hf, Bool.true_or]
    · simp
    · rw [hflag, decide_eq_true rfl, Bool.or_true]
    · exact absurd (hn.trans hlast) h

/-- A line of the recipe area, stored (R154, R156). -/
theorem State.storeLine_recipe {s : State} {line : Nat} {ws : List Word} (hl : line < 144) (hn : ws.length = 16)
    (hm : s.recipe.shadow.wf = true) :
    (s.storeLine line ws).recipe.staging = s.recipe.staging ∧
      (∀ i (hi : i < 16), (s.storeLine line ws).recipe.shadow.readWord (64 * line + 4 * i) = ws[i]) ∧
      (∀ a, a < 64 * line ∨ 64 * line + 64 ≤ a → (s.storeLine line ws).recipe.shadow.readByte a = s.recipe.shadow.readByte a) ∧
      (s.recipe.sum = shadowSum s.recipe.shadow →
        (s.storeLine line ws).recipe.sum = shadowSum (s.storeLine line ws).recipe.shadow) := by
  have hlt : line < Config.recipeLines := hl
  have hrecipe : (s.storeLine line ws).recipe = { s.recipe with
      shadow := applyBeats s.recipe.shadow (64 * line) (ws.map fullBeat)
      sum := sumBeats s.recipe.sum s.recipe.shadow (64 * line) (ws.map fullBeat) } := by
    simp [State.storeLine, hlt]
  rw [hrecipe]
  refine ⟨rfl, fun i hi => readWord_applyBeats_full _ _ hm (by omega), fun a ha => ?_, fun hsum => ?_⟩
  · exact readByte_applyBeats_ne _ _ (by rw [List.length_map, hn]; omega)
  · have hbytes : Config.recipeBytes = 9216 := rfl
    dsimp only
    rw [hsum]
    exact sumBeats_eq _ _ _ (by rw [List.length_map, hn]; omega) (by omega)

/-- The line of the plan area, stored in the staging copy (R156). -/
theorem State.storeLine_staging {s : State} {line : Nat} {ws : List Word} (hl : 144 ≤ line) (hn : ws.length = 16) :
    (s.storeLine line ws).recipe.shadow = s.recipe.shadow ∧ (s.storeLine line ws).recipe.sum = s.recipe.sum ∧
      ∀ i : Fin 8, (s.storeLine line ws).recipe.staging[i] = ws[i.val] := by
  have hge : ¬ line < Config.recipeLines := Nat.not_lt.mpr hl
  rw [State.storeLine, if_neg hge]
  refine ⟨rfl, rfl, fun i => ?_⟩
  have hi : i.val < ws.length := by omega
  simp [List.getElem?_eq_getElem hi]

/-- Settles O53. -/
theorem loadReadAnswerStores : Obligations.LoadReadAnswerStores := by
  intro s x rest line okay data hx hk hs hm words
  have hwords : ∀ i (hi : i < 16), (loadWords okay data)[i]'(by rw [loadWords_length]; exact hi) = words ⟨i, hi⟩ :=
    fun i hi => loadWords_getElem okay data i hi
  have hlen := loadWords_length okay data
  refine ⟨_, exec_loadReadAnswer hx hk okay data, ?_⟩
  rw [State.loadAnswer_eq]
  generalize hu : ({ s with arbiter := { s.arbiter with inflight := rest } } : State) = u
  have hus : u.stroke.state = .loading := by rw [← hu]; exact hs
  have hukeep : u.recipe = s.recipe ∧ u.arbiter.inflight = rest ∧ u.writer = s.writer ∧ u.remap = s.remap ∧
      u.checker = s.checker ∧ u.regionBase = s.regionBase := by
    rw [← hu]
    exact ⟨rfl, rfl, rfl, rfl, rfl, rfl⟩
  obtain ⟨hurecipe, huin, huwriter, huremap, huchecker, hubase⟩ := hukeep
  obtain ⟨hstroke, hqueue, -, -, -, hanswered⟩ := State.loadStored_keeps hus line okay data
  obtain ⟨hrecipe, hremap, hchecker, harbiter⟩ := u.loadStored_frame line okay data
  have hloading : (u.loadStored line okay data).stroke.state = .loading := by rw [hstroke, hus]
  obtain ⟨e1, e2, e3, e4, e5, e6, e7, e8, e9, e10⟩ := State.endLoad_spec hloading
  rw [e1, e2, e3, e4, e5, e6, e7, hrecipe, hremap, hchecker, harbiter, hqueue, hanswered, huin, huwriter, huremap, huchecker]
  rw [hanswered, huwriter] at e9 e10
  refine ⟨rfl, rfl, fun hl => ?_, fun hl => ?_, fun hf => ?_, e9, e10, rfl, rfl, rfl⟩
  · obtain ⟨h1, h2, h3, h4⟩ := State.storeLine_recipe hl hlen (by rw [hurecipe]; exact hm)
    rw [hurecipe] at h1 h3 h4
    exact ⟨h1, fun i => (h2 i.val i.isLt).trans (hwords i.val i.isLt), h3, h4⟩
  · obtain ⟨h1, h2, h3⟩ := State.storeLine_staging (s := u) hl hlen
    rw [hurecipe] at h1 h2
    exact ⟨h1, h2, fun i => (h3 i).trans (hwords i.val (by omega))⟩
  · subst hf
    obtain ⟨h1, h2⟩ := State.loadStored_failed hus line data
    refine ⟨e8 _ h1, h2.trans ?_⟩
    rw [State.loadAddr, hubase]

end Sys2Proof.Machine

/-! PROOFS. The completion of a record's write: the head gone, its entry filled again, the flags and the notice
(R87, R106, R182 to R185, R188). -/

namespace Sys2Proof.Machine

/-! ## The head has gone -/

/-- What the head's going leaves and what it changes (R183, R188). -/
@[simp] theorem State.headGone_keeps (s : State) (a : Word) (okay adv : Bool) :
    (s.headGone a okay adv).lines = s.lines ∧ (s.headGone a okay adv).recipe = s.recipe ∧
      (s.headGone a okay adv).arbiter = s.arbiter ∧ (s.headGone a okay adv).checker = s.checker ∧
      (s.headGone a okay adv).remap = s.remap ∧ (s.headGone a okay adv).protection = s.protection ∧
      (s.headGone a okay adv).portA = s.portA ∧ (s.headGone a okay adv).portS = s.portS ∧
      (s.headGone a okay adv).writer.consumer = s.writer.consumer ∧ (s.headGone a okay adv).writer.waitMarked = false ∧
      (s.headGone a okay adv).writer.dirty = true := by
  unfold State.headGone
  dsimp only
  cases okay <;> cases adv <;> simp [State.markDirty, State.memoryError, State.advanceProducer]

/-- The producer, the lap bit and the last memory error address after the head has gone (R183, R188). -/
theorem State.headGone_ring (s : State) (a : Word) (okay adv : Bool) :
    let next := (s.writer.producer + 1) % s.ringCapacity
    (s.headGone a okay adv).writer.producer = (if adv then next else s.writer.producer) ∧
      (s.headGone a okay adv).writer.lap = (if adv then (if next = 0 then !s.writer.lap else s.writer.lap) else s.writer.lap) ∧
      (s.headGone a okay adv).writer.memErrAddr = (if okay then s.writer.memErrAddr else a) := by
  unfold State.headGone
  cases okay <;> cases adv <;> simp only [State.memoryError_eq] <;> exact ⟨rfl, rfl, rfl⟩

theorem State.writerBusy_congr {s t : State} (h : t.arbiter = s.arbiter) : t.writerBusy = s.writerBusy := by
  rw [State.writerBusy, State.writerBusy, h]

theorem State.ringFull_congr {s t : State} (hp : t.writer.producer = s.writer.producer) (hc : t.writer.consumer = s.writer.consumer)
    (hr : t.recipe = s.recipe) : t.ringFull = s.ringFull := by
  rw [State.ringFull, State.ringFull, State.ringCapacity, State.ringCapacity, hp, hc, hr]

/-- The report writer is free and the ring is full once the head has gone (R185). -/
def State.fullBehind (s : State) (adv : Bool) : Prop :=
  s.writerBusy = false ∧
    ((if adv then (s.writer.producer + 1) % s.ringCapacity else s.writer.producer) + 1) % s.ringCapacity = s.writer.consumer

theorem State.headGone_full (s : State) (a : Word) (okay adv : Bool) :
    ((s.headGone a okay adv).writerBusy = false ∧ (s.headGone a okay adv).ringFull = true) ↔ s.fullBehind adv := by
  have hcap : (s.headGone a okay adv).ringCapacity = s.ringCapacity := State.ringCapacity_congr (by simp)
  rw [State.writerBusy_congr (t := s.headGone a okay adv) (s := s) (by simp), State.ringFull, hcap, (s.headGone_ring a okay adv).1,
    State.fullBehind]
  simp

/-! ## A record enters while the head may be taken up -/

/-- A record enters the queue and the head is taken up: RING_WAIT is set when the ring is full and the writer free (R185). -/
theorem State.flagSet_enqueue_takeUpHead {s : State} (hm : s.writer.waitMarked = false) (r : Record) (f : EventFlag) :
    (s.enqueue r).takeUpHead.flagSet f = true ↔
      s.flagSet f = true ∨ ((s.writerBusy = false ∧ s.ringFull = true) ∧ f = .ringWait) := by
  have hfull : (s.enqueue r).ringFull = s.ringFull := State.ringFull_congr (by simp) (by simp) (by simp)
  have hbusy : (s.enqueue r).writerBusy = s.writerBusy := State.writerBusy_congr (by simp)
  have henter : (s.enqueue r).flagSet f = true ↔
      s.flagSet f = true ∨ ((s.writer.queue = [] ∧ s.ringFull = true ∧ s.writerBusy = false) ∧ f = .ringWait) := by
    have hbit : (0x20#9).getLsbD f.bit = decide (f = .ringWait) := by cases f <;> rfl
    rw [State.flagSet, State.enqueue_lines]
    split
    · next h => simp [h, hbit, State.flagSet]
    · next h => simp [h, State.flagSet]
  have hmark : s.writer.queue ≠ [] → (s.enqueue r).writer.waitMarked = false := fun h => by
    simp [State.enqueue, h, hm]
  rw [State.flagSet_takeUpHead, henter, State.headWaits, hfull, hbusy]
  constructor
  · rintro ((h | ⟨⟨-, h1, h2⟩, h3⟩) | ⟨⟨-, h1, h2, -⟩, h3⟩)
    · exact .inl h
    · exact .inr ⟨⟨h2, h1⟩, h3⟩
    · exact .inr ⟨⟨h1, h2⟩, h3⟩
  · rintro (h | ⟨⟨h1, h2⟩, h3⟩)
    · exact .inl (.inl h)
    · by_cases hq : s.writer.queue = []
      · exact .inl (.inr ⟨⟨hq, h2, h1⟩, h3⟩)
      · exact .inr ⟨⟨by simp, h1, h2, hmark hq⟩, h3⟩

/-! ## The entry filled again, the walk not being PAUSED -/

theorem State.resumeWalk_of_not_paused {s : State} (h : s.walker.state ≠ .paused) : s.resumeWalk = s := if_neg h

theorem State.freeHead_of_not_paused {s : State} (h : s.walker.state ≠ .paused) (a : Word) (okay adv : Bool) :
    s.freeHead a okay adv = (s.headGone a okay adv).handOffOwed.takeUpHead := by
  rw [State.freeHead_eq, State.refillEntries, State.resumeWalk_of_not_paused (by simpa using h)]

/-- The hand-off of the oldest owed REFUSAL, by cases (R87). -/
theorem State.handOffOwed_of_none {s : State} (h : s.stroke.owed = []) : s.handOffOwed = s := by
  rw [State.handOffOwed, h]

theorem State.handOffOwed_of_occupied {s : State} (h : s.refusalOccupied = true) : s.handOffOwed = s := by
  unfold State.handOffOwed
  split
  · rfl
  · exact if_pos h

/-- The refusals owed become these. -/
def State.withOwed (s : State) (v : List RefusalRecord) : State := { s with stroke := { s.stroke with owed := v } }

@[simp] theorem State.withOwed_keeps (s : State) (v : List RefusalRecord) :
    (s.withOwed v).writer = s.writer ∧ (s.withOwed v).writerBusy = s.writerBusy ∧ (s.withOwed v).ringFull = s.ringFull ∧
      (s.withOwed v).walker = s.walker ∧ (s.withOwed v).stroke = { s.stroke with owed := v } ∧ (s.withOwed v).lines = s.lines ∧
      (s.withOwed v).records = s.records :=
  ⟨rfl, rfl, rfl, rfl, rfl, rfl, rfl⟩

theorem State.handOffOwed_of_free {s : State} {r : RefusalRecord} {rs : List RefusalRecord} (ho : s.stroke.owed = r :: rs)
    (h : s.refusalOccupied = false) : s.handOffOwed = (s.withOwed rs).enqueue (.refusal r) := by
  simp [State.handOffOwed, State.withOwed, ho, h]

theorem State.ne_nil_of_occupied {s : State} (h : s.refusalOccupied = true) : s.writer.queue ≠ [] := fun hq => by
  simp [State.refusalOccupied, State.entries, hq] at h

/-- The flags after the head has gone: RING_WAIT when another record waits on the full ring (R185). -/
theorem State.flagSet_freeHead {s : State} (h : s.walker.state ≠ .paused) (a : Word) (okay adv : Bool) (f : EventFlag) :
    (s.freeHead a okay adv).flagSet f = true ↔ s.flagSet f = true ∨
      (((s.writer.queue.tail ≠ [] ∨ s.stroke.owed ≠ []) ∧ s.fullBehind adv) ∧ f = .ringWait) := by
  have hflag : (s.headGone a okay adv).flagSet f = s.flagSet f := by simp [State.flagSet]
  have hqueue : (s.headGone a okay adv).writer.queue = s.writer.queue.tail := by simp
  have howed : (s.headGone a okay adv).stroke.owed = s.stroke.owed := by simp
  have hmark : (s.headGone a okay adv).writer.waitMarked = false := by simp
  have htaken : (s.headGone a okay adv).takeUpHead.flagSet f = true ↔
      s.flagSet f = true ∨ ((s.writer.queue.tail ≠ [] ∧ s.fullBehind adv) ∧ f = .ringWait) := by
    rw [State.flagSet_takeUpHead, hflag, State.headWaits, ← s.headGone_full a okay adv, hqueue, hmark]
    simp [and_assoc]
  rw [State.freeHead_of_not_paused h]
  cases ho : s.stroke.owed with
  | nil =>
    rw [State.handOffOwed_of_none (howed.trans ho), htaken]
    simp
  | cons r rs =>
    cases hocc : (s.headGone a okay adv).refusalOccupied with
    | true =>
      have hne : s.writer.queue.tail ≠ [] := hqueue ▸ State.ne_nil_of_occupied hocc
      rw [State.handOffOwed_of_occupied hocc, htaken]
      simp [hne]
    | false =>
      rw [State.handOffOwed_of_free (howed.trans ho) hocc]
      have hmark' : ((s.headGone a okay adv).withOwed rs).writer.waitMarked = false := by simp
      have hflag' : ((s.headGone a okay adv).withOwed rs).flagSet f = s.flagSet f := by simp [State.flagSet]
      obtain ⟨-, hbusy, hfull, -⟩ := (s.headGone a okay adv).withOwed_keeps rs
      rw [State.flagSet_enqueue_takeUpHead hmark', hflag', hbusy, hfull, s.headGone_full a okay adv]
      simp

end Sys2Proof.Machine

/-! PROOFS. What a completed record leaves and changes, in either order of its blocks (R87, R106, R183, R185, R188). -/

namespace Sys2Proof.Machine

/-! ## The queue and the refusals after the head has gone -/

/-- The stroke controller after the head has gone, the walk not being PAUSED: an owed REFUSAL may have been handed off (R87). -/
theorem State.freeHead_stroke {s : State} (h : s.walker.state ≠ .paused) (a : Word) (okay adv : Bool) :
    ∃ v, (s.freeHead a okay adv).stroke = { s.stroke with owed := v } := by
  rw [State.freeHead_of_not_paused h]
  unfold State.handOffOwed
  split
  · exact ⟨s.stroke.owed, by simp⟩
  · split
    · exact ⟨s.stroke.owed, by simp⟩
    · next rs _ _ => exact ⟨rs, by simp⟩

/-- With no REFUSAL owed, the head is all that goes. -/
theorem State.freeHead_of_none_owed {s : State} (h : s.walker.state ≠ .paused) (ho : s.stroke.owed = []) (a : Word) (okay adv : Bool) :
    (s.freeHead a okay adv).stroke = s.stroke ∧ (s.freeHead a okay adv).writer.queue = s.writer.queue.tail := by
  rw [State.freeHead_of_not_paused h, State.handOffOwed_of_none (by simpa using ho)]
  simp

theorem State.headGone_occupied (s : State) (a : Word) (okay adv : Bool) :
    (s.headGone a okay adv).refusalOccupied = decide (0 < (s.writer.queue.tail.filter fun e => e.record.isRefusal).length) := by
  have hqueue : (s.headGone a okay adv).writer.queue = s.writer.queue.tail := by simp
  rw [State.refusalOccupied, State.entries, hqueue]

/-- The oldest owed REFUSAL enters the refusal entry that the head has freed (R87). -/
theorem State.freeHead_of_owed {s : State} (h : s.walker.state ≠ .paused) {r : RefusalRecord} {rs : List RefusalRecord}
    (ho : s.stroke.owed = r :: rs) (hfree : (s.writer.queue.tail.filter fun e => e.record.isRefusal) = []) (a : Word)
    (okay adv : Bool) :
    (s.freeHead a okay adv).stroke = { s.stroke with owed := rs } ∧
      (s.freeHead a okay adv).writer.queue = s.writer.queue.tail ++ [{ record := .refusal r, issued := false }] := by
  have hocc : (s.headGone a okay adv).refusalOccupied = false := by
    rw [State.headGone_occupied, hfree]
    rfl
  rw [State.freeHead_of_not_paused h, State.handOffOwed_of_free (by simpa using ho) hocc]
  simp

/-- The hand-off keeps the refusals and their order (R87). -/
theorem State.freeHead_refusals {s : State} (h : s.walker.state ≠ .paused) (a : Word) (okay adv : Bool) :
    (s.freeHead a okay adv).refusals = (s.writer.queue.tail.filterMap fun e => Record.refusal? e.record) ++ s.stroke.owed := by
  have hgone : (s.headGone a okay adv).refusals =
      (s.writer.queue.tail.filterMap fun e => Record.refusal? e.record) ++ s.stroke.owed := by
    simp [State.refusals]
  have htake : ∀ t : State, t.takeUpHead.refusals = t.refusals := fun t => State.refusals_congr (by simp) (by simp)
  rw [State.freeHead_of_not_paused h, htake, ← hgone]
  cases hocc : (s.headGone a okay adv).refusalOccupied with
  | true => rw [State.handOffOwed_of_occupied hocc]
  | false => exact State.handOffOwed_refusals _ hocc

/-! ## The flags of a completion -/

/-- The flags after a completion (R183, R188). -/
theorem State.flagSet_completionFlags (s : State) (r : Record) (okay : Bool) (f : EventFlag) :
    (s.completionFlags r okay).flagSet f = true ↔ s.flagSet f = true ∨ (r.isStroke = true ∧ f = .verdict) ∨
      (r.isRefusal = true ∧ f = .refusal) ∨ (okay = false ∧ f = .memerr) := by
  have hset : ∀ (t : State) (g : EventFlag), (t.setFlag g).flagSet f = true ↔ t.flagSet f = true ∨ f = g := fun t g => by
    rw [State.flagSet_setFlag, Bool.or_eq_true, decide_eq_true_eq]
  unfold State.completionFlags
  cases r <;> cases okay <;> simp [Record.isStroke, Record.isRefusal, hset, or_assoc]

@[simp] theorem State.completionFlags_queue (s : State) (r : Record) (okay : Bool) :
    (s.completionFlags r okay).writer.queue = s.writer.queue := by
  unfold State.completionFlags
  dsimp only
  split <;> split <;> (try split) <;> simp

/-! ## The two orders of a completion -/

theorem State.waitingFor_congr {s t : State} (hp : t.portS = s.portS) (c : WaitCause) : t.waitingFor .s c = s.waitingFor .s c := by
  unfold State.waitingFor State.port
  dsimp only
  rw [hp]

/-- The completion of a record for whose entry no arming request waits (R106). -/
theorem State.completeRecord_of_none {s : State} {e : ReportEntry} {es : List ReportEntry} (hq : s.writer.queue = e :: es)
    (hw : e.record.isRefusal = true → s.waitingFor .s .refusalEntry = none) (a : Word) (okay adv first : Bool) :
    s.completeRecord a okay adv first =
      if first then (((s.freeHead a okay adv).completionFlags e.record okay).notice s.lines.flags).endReporting e.record
      else (((s.freeHead a okay adv).endReporting e.record).completionFlags e.record okay).notice
        (((s.freeHead a okay adv).endReporting e.record).lines.flags &&&
          ~~~((s.freeHead a okay adv).lines.flags &&& ~~~s.lines.flags)) := by
  have hafter : ∀ t : State, t.portS = s.portS → t.afterRecord e.record = t.endReporting e.record := fun t ht =>
    afterRecord_of_none fun hr => (State.waitingFor_congr ht _).trans (hw hr)
  rw [State.completeRecord, hq]
  dsimp only
  rw [hafter _ (by simp), hafter _ (by simp)]

theorem State.endReporting_of_not_stroke {r : Record} (h : r.isStroke = false) (s : State) : s.endReporting r = s := by
  simp [State.endReporting, h]

/-- A notice sees the flags that rose, not the others that were set before. -/
theorem State.notice_congr {s : State} {b c : BitVec 9} (h : ∀ f : EventFlag, s.flagSet f = true → (b.getLsbD f.bit = c.getLsbD f.bit)) :
    s.notice b = s.notice c := by
  have hrose : s.rose b = s.rose c := by
    rw [Bool.eq_iff_iff, State.rose_iff, State.rose_iff]
    exact exists_congr fun f => and_congr_right fun hf => by rw [h f hf]
  rw [State.notice, State.notice, hrose]

/-- The notice of a completion is of the flags that were clear before the head went (log 9). -/
theorem State.notice_before {s t u : State} (hmono : ∀ f, s.flagSet f = true → t.flagSet f = true) :
    u.notice (t.lines.flags &&& ~~~(t.lines.flags &&& ~~~s.lines.flags)) = u.notice s.lines.flags := by
  refine State.notice_congr fun f _ => ?_
  have := hmono f
  simp only [State.flagSet] at this
  simp only [BitVec.getLsbD_and, BitVec.getLsbD_not, f.bit_lt, decide_true, Bool.true_and]
  cases h1 : s.lines.flags.getLsbD f.bit <;> cases h2 : t.lines.flags.getLsbD f.bit <;> simp_all

/-- The completion of a record that is no STROKE_VERDICT is one and the same in either order of its blocks. -/
theorem State.completeRecord_of_other {s : State} {e : ReportEntry} {es : List ReportEntry} (hq : s.writer.queue = e :: es)
    (hw : e.record.isRefusal = true → s.waitingFor .s .refusalEntry = none) (hr : e.record.isStroke = false) {a : Word} {okay adv : Bool}
    (hmono : ∀ f, s.flagSet f = true → (s.freeHead a okay adv).flagSet f = true) (first : Bool) :
    s.completeRecord a okay adv first = ((s.freeHead a okay adv).completionFlags e.record okay).notice s.lines.flags := by
  rw [State.completeRecord_of_none hq hw]
  simp only [State.endReporting_of_not_stroke hr, State.notice_before hmono, ite_self]

/-! ## What every completion does -/

theorem State.resumeWalk_written (s : State) : s.resumeWalk.walker.written = s.walker.written := by
  have hnext : ∀ t : State, t.nextSlot.walker.written = t.walker.written := fun t => by
    unfold State.nextSlot
    split
    · rfl
    · split
      · rw [State.queueStrokeVerdict_walker]
      · rfl
  have hslot : s.queueSlot.walker.written = s.walker.written := by
    rw [State.queueSlot_eq, hnext, (s.slotQueued_spec).2.2.2.1]
    unfold State.markReject
    split <;> rfl
  unfold State.resumeWalk
  split
  · split
    · split
      · rw [(s.queuePin_records _).2]
      · split <;> rfl
    · split
      · exact hslot
      · rfl
    · rfl
  · rfl

/-- What the head's going leaves, whatever fills its entry. -/
theorem State.freeHead_keeps (s : State) (a : Word) (okay adv : Bool) :
    (s.freeHead a okay adv).writer.dirty = true ∧ (s.freeHead a okay adv).walker.written = s.walker.written ∧
      (s.freeHead a okay adv).writer.producer = (if adv then (s.writer.producer + 1) % s.ringCapacity else s.writer.producer) ∧
      (s.freeHead a okay adv).writer.lap = (if adv then (if (s.writer.producer + 1) % s.ringCapacity = 0 then !s.writer.lap
        else s.writer.lap) else s.writer.lap) ∧
      (s.freeHead a okay adv).writer.consumer = s.writer.consumer ∧
      (s.freeHead a okay adv).writer.memErrAddr = (if okay then s.writer.memErrAddr else a) := by
  obtain ⟨hproducer, hlap, herr⟩ := s.headGone_ring a okay adv
  rw [State.freeHead_eq]
  refine ⟨State.keepsDirty_refillEntries _ (by simp), ?_, ?_, ?_, by simp, ?_⟩
  · simp [State.refillEntries, State.resumeWalk_written]
  · simp [hproducer]
  · simp [hlap]
  · simp [herr]

/-- What the completion of a record leaves and changes, in either order of its blocks, when no arming request waits for its entry. -/
theorem State.completeRecord_spec {s : State} {e : ReportEntry} {es : List ReportEntry} (hq : s.writer.queue = e :: es)
    (hw : e.record.isRefusal = true → s.waitingFor .s .refusalEntry = none) (a : Word) (okay adv first : Bool) :
    let t := s.completeRecord a okay adv first
    t.arbiter = s.arbiter ∧ t.recipe = s.recipe ∧ t.remap = s.remap ∧ t.checker = s.checker ∧ t.protection = s.protection ∧
      t.writer.dirty = true ∧ t.walker.written = s.walker.written ∧
      t.writer.producer = (if adv then (s.writer.producer + 1) % s.ringCapacity else s.writer.producer) ∧
      t.writer.lap = (if adv then (if (s.writer.producer + 1) % s.ringCapacity = 0 then !s.writer.lap else s.writer.lap)
        else s.writer.lap) ∧
      t.writer.consumer = s.writer.consumer ∧ t.writer.memErrAddr = (if okay then s.writer.memErrAddr else a) ∧
      t.writer.lastIssued = s.writer.lastIssued ∧
      ∀ f, ((s.freeHead a okay adv).flagSet f = true ∨ (e.record.isStroke = true ∧ f = .verdict) ∨
        (e.record.isRefusal = true ∧ f = .refusal) ∨ (okay = false ∧ f = .memerr)) → t.flagSet f = true := by
  obtain ⟨hdirty, hwritten, hproducer, hlap, hconsumer, herr⟩ := s.freeHead_keeps a okay adv
  have hlast : (s.freeHead a okay adv).writer.lastIssued = s.writer.lastIssued := by
    unfold State.freeHead
    simp only [State.refillEntries_keeps]
    cases okay <;> cases adv <;> simp [State.memoryError, State.advanceProducer, State.markDirty]
  have hend : ∀ (t : State) (r : Record), t.KeepsDirty (t.endReporting r) := fun t r => by
    unfold State.endReporting
    split
    · exact State.keepsDirty_enterIdle t
    · exact .refl t
  have hflagEnd : ∀ (t : State) (r : Record) (f : EventFlag), (t.endReporting r).flagSet f = t.flagSet f := fun t r f => by
    simp [State.flagSet]
  rw [State.completeRecord_of_none hq hw]
  dsimp only
  split
  · refine ⟨by simp, by simp, by simp, by simp, by simp, ?_, by simp [hwritten], by simp [hproducer], by simp [hlap], by simp [hconsumer],
      by simp [herr], by simp [hlast], fun f hf => ?_⟩
    · exact hend _ _ (State.keepsDirty_notice _ _ (State.keepsDirty_completionFlags _ _ _ hdirty))
    · rw [hflagEnd]
      exact State.flagSet_notice _ ((State.flagSet_completionFlags _ _ _ _).mpr hf)
  · refine ⟨by simp, by simp, by simp, by simp, by simp, ?_, by simp [hwritten], by simp [hproducer], by simp [hlap], by simp [hconsumer],
      by simp [herr], by simp [hlast], fun f hf => ?_⟩
    · exact State.keepsDirty_notice _ _ (State.keepsDirty_completionFlags _ _ _ (hend _ _ hdirty))
    · exact State.flagSet_notice _ ((State.flagSet_completionFlags _ _ _ _).mpr (by rwa [hflagEnd]))

end Sys2Proof.Machine

/-! PROOFS. The report queue and the stroke controller do not look at the near ports: their operations commute with a change of a
port. -/

namespace Sys2Proof.Machine

section
variable (s : State) (p : PortId) (np : NearPort)

theorem State.setPort_fields : (s.setPort p np).writer = s.writer ∧ (s.setPort p np).stroke = s.stroke ∧
    (s.setPort p np).walker = s.walker ∧ (s.setPort p np).lines = s.lines ∧ (s.setPort p np).recipe = s.recipe ∧
    (s.setPort p np).checker = s.checker ∧ (s.setPort p np).arbiter = s.arbiter ∧ (s.setPort p np).remap = s.remap := by
  cases p <;> exact ⟨rfl, rfl, rfl, rfl, rfl, rfl, rfl, rfl⟩

theorem State.setFlag_setPort (f : EventFlag) : (s.setPort p np).setFlag f = (s.setFlag f).setPort p np := by
  rw [State.setFlag_eq, State.setFlag_eq]
  cases p <;> rfl

theorem State.takeUpHead_setPort : (s.setPort p np).takeUpHead = s.takeUpHead.setPort p np := by
  have hwaits : (s.setPort p np).headWaits ↔ s.headWaits := by cases p <;> exact Iff.rfl
  by_cases h : s.headWaits
  · rw [State.takeUpHead_of_waits h, State.takeUpHead_of_waits (hwaits.mpr h), ← State.setFlag_setPort]
    cases p <;> rfl
  · rw [State.takeUpHead_of_not_waits h, State.takeUpHead_of_not_waits (mt hwaits.mp h)]

theorem State.enqueue_setPort (r : Record) : (s.setPort p np).enqueue r = (s.enqueue r).setPort p np := by
  obtain ⟨hwriter, -⟩ := s.setPort_fields p np
  unfold State.enqueue
  rw [hwriter]
  dsimp only
  split
  · rw [← State.takeUpHead_setPort]
    cases p <;> rfl
  · cases p <;> rfl

theorem State.enter_setPort (st : StrokeState) : (s.setPort p np).enter st = (s.enter st).setPort p np := by
  rw [State.enter, State.enter, State.dirtyIf_eq, State.dirtyIf_eq]
  cases p <;> rfl

theorem State.enterIdle_setPort : (s.setPort p np).enterIdle = s.enterIdle.setPort p np := by
  obtain ⟨-, hstroke, -⟩ := s.setPort_fields p np
  unfold State.enterIdle
  rw [hstroke]
  split
  · exact s.enter_setPort p np .idle
  · cases p <;> rfl

theorem State.refusalOccupied_setPort : (s.setPort p np).refusalOccupied = s.refusalOccupied := by cases p <;> rfl

theorem State.queueRefusal_setPort (r : RefusalRecord) : (s.setPort p np).queueRefusal r = (s.queueRefusal r).setPort p np := by
  unfold State.queueRefusal
  rw [State.refusalOccupied_setPort]
  split
  · cases p <;> rfl
  · exact s.enqueue_setPort p np _

theorem State.abandonArming_setPort : (s.setPort p np).abandonArming = s.abandonArming.setPort p np := by
  have hwhy : (s.setPort p np).refusalOf .abandoned = s.refusalOf .abandoned := by cases p <;> rfl
  rw [State.abandonArming, State.abandonArming, State.refuseArming, State.refuseArming, hwhy, State.queueRefusal_setPort,
    State.enterIdle_setPort]

theorem State.notice_setPort (b : BitVec 9) : (s.setPort p np).notice b = (s.notice b).setPort p np := by
  have hrose : (s.setPort p np).rose b = s.rose b := by cases p <;> rfl
  obtain ⟨-, hstroke, -⟩ := s.setPort_fields p np
  unfold State.notice
  rw [hrose, hstroke]
  split
  · exact s.abandonArming_setPort p np
  · rfl

theorem State.raise_setPort (f : EventFlag) : (s.setPort p np).raise f = (s.raise f).setPort p np := by
  obtain ⟨-, -, -, hlines, -⟩ := s.setPort_fields p np
  rw [State.raise, State.raise, State.setFlag_setPort, State.notice_setPort, hlines]

theorem State.memoryError_setPort (a : Word) : (s.setPort p np).memoryError a = (s.memoryError a).setPort p np := by
  rw [State.memoryError_eq, State.memoryError_eq]
  cases p <;> rfl

theorem State.queueStrokeVerdict_setPort (o : StrokeOutcome) :
    (s.setPort p np).queueStrokeVerdict o = (s.queueStrokeVerdict o).setPort p np := by
  have hstop : (s.setPort p np).stopWalker = s.stopWalker.setPort p np := by cases p <;> rfl
  have hcompose : (s.setPort p np).composeStroke o = s.composeStroke o := by cases p <;> rfl
  rw [State.queueStrokeVerdict, State.queueStrokeVerdict, hstop, hcompose, State.enqueue_setPort, State.enter_setPort]

theorem State.nextSlot_setPort : (s.setPort p np).nextSlot = s.nextSlot.setPort p np := by
  obtain ⟨-, hstroke, hwalker, -, hrecipe, -⟩ := s.setPort_fields p np
  unfold State.nextSlot
  rw [hstroke, hwalker, hrecipe]
  split
  · cases p <;> rfl
  · split
    · exact s.queueStrokeVerdict_setPort p np _
    · rfl

theorem State.queueSlot_setPort : (s.setPort p np).queueSlot = s.queueSlot.setPort p np := by
  have hcompose : ∀ n, (s.setPort p np).composeSlot n = s.composeSlot n := fun n => by cases p <;> rfl
  have hmark : ∀ v, (s.setPort p np).markReject v = (s.markReject v).setPort p np := fun v => by
    unfold State.markReject
    split
    · cases p <;> rfl
    · rfl
  obtain ⟨-, -, hwalker, -⟩ := s.setPort_fields p np
  rw [State.queueSlot, State.queueSlot, hwalker, hcompose, hmark, State.enqueue_setPort, State.nextSlot_setPort]

theorem State.queuePin_setPort (c : Nat) : (s.setPort p np).queuePin c = (s.queuePin c).setPort p np := by
  have hcompose : ∀ n, (s.setPort p np).composePin n c = s.composePin n c := fun n => by cases p <;> rfl
  obtain ⟨-, -, hwalker, -⟩ := s.setPort_fields p np
  rw [State.queuePin, State.queuePin, hwalker, hcompose, State.enqueue_setPort]
  cases p <;> rfl

theorem State.resumeWalk_setPort : (s.setPort p np).resumeWalk = s.resumeWalk.setPort p np := by
  have hfree : (s.setPort p np).generalFree = s.generalFree := by cases p <;> rfl
  have homits : (s.setPort p np).omits = s.omits := by cases p <;> rfl
  obtain ⟨-, -, hwalker, -⟩ := s.setPort_fields p np
  unfold State.resumeWalk
  rw [hwalker, hfree, homits]
  split
  · split
    · split
      · exact s.queuePin_setPort p np _
      · split
        · cases p <;> rfl
        · rfl
    · split
      · exact s.queueSlot_setPort p np
      · rfl
    · rfl
  · rfl

theorem State.handOffOwed_setPort : (s.setPort p np).handOffOwed = s.handOffOwed.setPort p np := by
  obtain ⟨-, hstroke, -⟩ := s.setPort_fields p np
  unfold State.handOffOwed
  rw [hstroke, State.refusalOccupied_setPort]
  split
  · rfl
  · split
    · rfl
    · rw [← State.enqueue_setPort]
      cases p <;> rfl

theorem State.freeHead_setPort (a : Word) (okay adv : Bool) :
    (s.setPort p np).freeHead a okay adv = (s.freeHead a okay adv).setPort p np := by
  have hgone : (s.setPort p np).headGone a okay adv = (s.headGone a okay adv).setPort p np := by
    unfold State.headGone
    dsimp only
    cases okay <;> cases adv <;> simp only [State.memoryError_eq] <;> cases p <;> rfl
  rw [State.freeHead_eq, State.freeHead_eq, hgone, State.refillEntries, State.refillEntries, State.resumeWalk_setPort,
    State.handOffOwed_setPort, State.takeUpHead_setPort]

theorem State.completionFlags_setPort (r : Record) (okay : Bool) :
    (s.setPort p np).completionFlags r okay = (s.completionFlags r okay).setPort p np := by
  unfold State.completionFlags
  cases r <;> cases okay <;> simp [Record.isStroke, Record.isRefusal, State.setFlag_setPort]

end

end Sys2Proof.Machine

/-! PROOFS. The obligations on a completed record write and on a record that meets the control region (R87, R106, R183 to R185, R188). -/

namespace Sys2Proof.Machine

/-- The arming is abandoned from a state that has only moved the refusals between the entry and those owed (R86, R87, R91). -/
theorem State.abandonedTo_moved {w u : State} {v : List RefusalRecord} (ho : u.owedOk) (hr : u.refusals = w.refusals)
    (hs : u.stroke = { w.stroke with owed := v }) (hc : u.checker = w.checker) (hm : u.remap = w.remap) :
    w.abandonedTo u.abandonArming := by
  obtain ⟨h1, h2, h3, h4, h5, -, h7⟩ := u.refuseArming_counts (u.refusalOf .abandoned)
  obtain ⟨hnone, hsome⟩ := u.refuseArming_next (u.refusalOf .abandoned)
  rw [hs] at hnone hsome h1 h2 h3 h4 h5
  refine ⟨?_, h7, hnone, hsome, by simp [State.abandonArming, hc], by simp [State.abandonArming, hm], h1, h2, h3, h4, h5⟩
  rw [State.abandonArming, State.refuseArming_refusals u _ ho, hr, State.refusalOf, State.strokeNumber, State.strokeNumber, hs]

theorem Record.isStroke_iff (r : Record) : r.isStroke = true ↔ ∃ v, r = .stroke v := by cases r <;> simp [Record.isStroke]
theorem Record.isRefusal_iff (r : Record) : r.isRefusal = true ↔ ∃ v, r = .refusal v := by cases r <;> simp [Record.isRefusal]

/-! ## The completion of a record that is no STROKE_VERDICT, the walk not being PAUSED -/

section
variable {s : State} {e : ReportEntry} {es : List ReportEntry} {a : Word} {okay adv : Bool}

/-- The state before the notice. -/
def State.completed (s : State) (e : ReportEntry) (a : Word) (okay adv : Bool) : State :=
  (s.freeHead a okay adv).completionFlags e.record okay

theorem State.completeRecord_eq (hq : s.writer.queue = e :: es)
    (hw : e.record.isRefusal = true → s.waitingFor .s .refusalEntry = none) (hr : e.record.isStroke = false)
    (hp : s.walker.state ≠ .paused) (first : Bool) :
    s.completeRecord a okay adv first = (s.completed e a okay adv).notice s.lines.flags :=
  State.completeRecord_of_other hq hw hr (fun f hf => (State.flagSet_freeHead hp a okay adv f).mpr (.inl hf)) first

/-- Another record waits on the full ring once the head has gone (R185). -/
def State.nextWaits (s : State) (adv : Bool) : Prop :=
  (s.writer.queue.tail ≠ [] ∨ s.stroke.owed ≠ []) ∧ s.fullBehind adv

/-- The flags of a completed record other than a STROKE_VERDICT. -/
theorem State.flagSet_completed (hr : e.record.isStroke = false) (hp : s.walker.state ≠ .paused) (f : EventFlag) :
    (s.completed e a okay adv).flagSet f = true ↔ s.flagSet f = true ∨ (s.nextWaits adv ∧ f = .ringWait) ∨
      (e.record.isRefusal = true ∧ f = .refusal) ∨ (okay = false ∧ f = .memerr) := by
  rw [State.completed, State.flagSet_completionFlags, State.flagSet_freeHead hp, State.nextWaits, hr]
  simp [or_assoc]

/-- The flags that rise while enabled with a completed record other than a STROKE_VERDICT (R138). -/
theorem State.rose_completed (hr : e.record.isStroke = false) (hp : s.walker.state ≠ .paused) :
    (s.completed e a okay adv).rose s.lines.flags = true ↔
      (e.record.isRefusal = true ∧ s.flagSet .refusal = false ∧ s.lines.enables.getLsbD 1 = true) ∨
      (okay = false ∧ s.flagSet .memerr = false ∧ s.lines.enables.getLsbD 7 = true) ∨
      (s.nextWaits adv ∧ s.flagSet .ringWait = false ∧ s.lines.enables.getLsbD 5 = true) := by
  have henables : (s.completed e a okay adv).lines.enables = s.lines.enables := by simp [State.completed, State.freeHead_eq]
  simp only [State.rose_iff, State.flagSet_completed hr hp, henables]
  constructor
  · rintro ⟨f, hset | ⟨hwaits, rfl⟩ | ⟨hrefusal, rfl⟩ | ⟨hokay, rfl⟩, hclear, hen⟩
    · exact absurd (hset.symm.trans hclear) (by decide)
    · exact .inr (.inr ⟨hwaits, hclear, hen⟩)
    · exact .inl ⟨hrefusal, hclear, hen⟩
    · exact .inr (.inl ⟨hokay, hclear, hen⟩)
  · rintro (⟨hrefusal, hclear, hen⟩ | ⟨hokay, hclear, hen⟩ | ⟨hwaits, hclear, hen⟩)
    · exact ⟨.refusal, .inr (.inr (.inl ⟨hrefusal, rfl⟩)), hclear, hen⟩
    · exact ⟨.memerr, .inr (.inr (.inr ⟨hokay, rfl⟩)), hclear, hen⟩
    · exact ⟨.ringWait, .inr (.inl ⟨hwaits, rfl⟩), hclear, hen⟩

theorem State.completed_stroke (hp : s.walker.state ≠ .paused) : ∃ v, (s.completed e a okay adv).stroke = { s.stroke with owed := v } := by
  obtain ⟨v, hv⟩ := State.freeHead_stroke hp a okay adv
  exact ⟨v, by simp [State.completed, hv]⟩

theorem State.completed_refusals (hp : s.walker.state ≠ .paused) : (s.completed e a okay adv).refusals =
    (s.writer.queue.tail.filterMap fun e => Record.refusal? e.record) ++ s.stroke.owed := by
  rw [← State.freeHead_refusals hp a okay adv]
  exact State.refusals_congr (by simp [State.completed]) (by simp [State.completed])

theorem State.completed_owedOk (s : State) (e : ReportEntry) (a : Word) (okay adv : Bool) : (s.completed e a okay adv).owedOk := by
  have h := s.freeHead_owedOk a okay adv
  have hqueue : (s.completed e a okay adv).writer.queue = (s.freeHead a okay adv).writer.queue := State.completionFlags_queue _ _ _
  unfold State.owedOk State.refusalOccupied at h ⊢
  rw [State.entries_congr hqueue]
  simpa [State.completed] using h

/-- A notice abandons the arming that the completion found (R91). -/
theorem State.completed_abandonedTo (hq : s.writer.queue = e :: es) (hp : s.walker.state ≠ .paused) :
    State.abandonedTo { s with writer := { s.writer with queue := es } } (s.completed e a okay adv).abandonArming := by
  obtain ⟨v, hv⟩ := State.completed_stroke (e := e) (a := a) (okay := okay) (adv := adv) hp
  refine State.abandonedTo_moved (State.completed_owedOk s e a okay adv) ?_ hv (by simp [State.completed]) (by simp [State.completed])
  rw [State.completed_refusals hp, hq]
  rfl

end

/-! ## The obligations -/

theorem exec_armWaitEnd (s : State) : exec .armWaitEnd s = .next s.takeArming := rfl

/-- Part of O49: the completion ends the wait of an arming request after everything else. -/
theorem State.completeRecord_frees {s : State} {e : ReportEntry} {es : List ReportEntry} (hq : s.writer.queue = e :: es)
    (hr : e.record.isRefusal = true) (a : Word) (okay adv : Bool) :
    s.completeRecord a okay adv true = (((s.freePort .s).completeRecord a okay adv true).setPort .s s.portS).takeArming := by
  have hns : e.record.isStroke = false := by cases h : e.record <;> simp_all [Record.isRefusal, Record.isStroke]
  have hafter : ∀ t : State, t.afterRecord e.record = t.takeArming := fun t => by
    rw [State.afterRecord, if_pos hr, State.endReporting_of_not_stroke hns]
  have hq' : (s.freePort .s).writer.queue = e :: es := by rw [← hq]; rfl
  have hback : ∀ (t : State) (np : NearPort), t.portS = s.portS → (t.setPort .s np).setPort .s s.portS = t := fun t np h => by
    rw [← h]
    rfl
  rw [State.completeRecord, State.completeRecord, hq, hq']
  dsimp only
  rw [if_pos rfl, if_pos rfl, hafter, hafter, State.freePort, State.freeHead_setPort, State.completionFlags_setPort,
    State.notice_setPort, (s.setPort_fields .s _).2.2.2.1]
  generalize hu : ((s.freeHead a okay adv).completionFlags e.record okay).notice s.lines.flags = u
  have hport : u.portS = s.portS := by
    rw [← hu]
    simp
  have hfree : (u.setPort .s { s.port .s with status := .free }).takeArming = u.setPort .s { s.port .s with status := .free } :=
    endWait_of_none rfl
  rw [hfree, hback u _ hport]

/-- Settles O49. -/
theorem recordWriteCompletes : Obligations.RecordWriteCompletes := by
  refine ⟨fun s x rest e es okay first hx hk hd hq hw => ?_, fun s t x rest e es okay hx hk hd hq hr ht => ?_⟩
  · intro next producer waits
    generalize hv : ({ s with arbiter := { s.arbiter with inflight := rest } } : State) = v
    have hexec : exec (.recordWriteComplete okay first) s = .next (v.completeRecord x.request.addr okay x.advances first) := by
      rw [exec_recordWriteComplete hx hk, if_neg (by simp [hd]), hv]
    have hkept : v.writer = s.writer ∧ v.stroke = s.stroke ∧ v.walker = s.walker ∧ v.lines = s.lines ∧ v.recipe = s.recipe ∧
        v.remap = s.remap ∧ v.checker = s.checker ∧ v.protection = s.protection ∧ v.arbiter.inflight = rest ∧
        v.ringCapacity = s.ringCapacity := by
      rw [← hv]
      exact ⟨rfl, rfl, rfl, rfl, rfl, rfl, rfl, rfl, rfl, rfl⟩
    obtain ⟨hwriter, hstroke, hwalker, hlines, hrecipe, hremap, hchecker, hprot, hin, hcap⟩ := hkept
    have hflag : ∀ f, v.flagSet f = s.flagSet f := fun f => by rw [State.flagSet, State.flagSet, hlines]
    have hvq : v.writer.queue = e :: es := by rw [hwriter, hq]
    have hvw : e.record.isRefusal = true → v.waitingFor .s .refusalEntry = none := fun h => by
      rw [← hw h, ← hv]
      rfl
    have hwaits : v.nextWaits x.advances ↔ waits := by
      have hbusy : v.writerBusy = false ↔ ∀ y ∈ rest, y.kind.ofWriter = false := by
        rw [State.writerBusy, hin]
        simp
      rw [State.nextWaits, State.fullBehind, hbusy, hwriter, hq, hstroke, hcap]
      exact Iff.rfl
    obtain ⟨g1, g2, g3, g4, g5, g6, g7, g8, g9, g10, g11, -, g12⟩ :=
      State.completeRecord_spec hvq hvw x.request.addr okay x.advances first
    refine ⟨_, hexec, by rw [g1, hin], g6, fun ha => ?_, fun ha => ?_, by rw [g10, hwriter], by rw [g2, hrecipe], by rw [g3, hremap],
      by rw [g4, hchecker], by rw [g5, hprot], by rw [g7, hwalker], fun h => ?_, fun h => ?_, fun h => ⟨?_, ?_⟩, fun h => ?_,
      fun hp hwait => ?_, fun hns hst hp hnot => ?_, fun hns hst hp ho => ?_, fun hns hst hp ho => ?_⟩
    · rw [g8, g9, ha, hwriter, hcap]
      exact ⟨rfl, rfl⟩
    · rw [g8, g9, ha, hwriter]
      exact ⟨rfl, rfl⟩
    · exact g12 _ (.inr (.inl ⟨(Record.isStroke_iff _).mpr h, rfl⟩))
    · exact g12 _ (.inr (.inr (.inl ⟨(Record.isRefusal_iff _).mpr h, rfl⟩)))
    · exact g12 _ (.inr (.inr (.inr ⟨h, rfl⟩)))
    · rw [g11, h]
      rfl
    · rw [g11, h, hwriter]
      rfl
    · rw [← hwalker] at hp
      exact g12 _ (.inl ((State.flagSet_freeHead hp _ _ _ _).mpr (.inr ⟨hwaits.mpr hwait, rfl⟩)))
    all_goals
      rw [← hwalker] at hp
      have hns' : e.record.isStroke = false := Bool.eq_false_iff.mpr fun h => hns ((Record.isStroke_iff _).mp h)
      obtain ⟨o, hstroke'⟩ :=
        State.completed_stroke (e := e) (a := x.request.addr) (okay := okay) (adv := x.advances) hp
      rw [State.completeRecord_eq hvq hvw hns' hp]
    · rw [State.notice_of_not_arming (by rw [hstroke', hstroke]; exact hst), ← hflag, Bool.eq_iff_iff,
        State.flagSet_completed hns' hp, hwaits]
      simp [hnot]
    · obtain ⟨h1, h2⟩ := State.freeHead_of_none_owed hp (by rw [hstroke, ho]) x.request.addr okay x.advances
      rw [State.notice_of_not_arming (by rw [hstroke', hstroke]; exact hst)]
      exact ⟨by simp [State.completed, h2, hvq], by simp [State.completed, h1, hstroke]⟩
    · intro rises
      have hrises : ((v.completed e x.request.addr okay x.advances).rose v.lines.flags = true ∧
          (v.completed e x.request.addr okay x.advances).stroke.state = .arming) ↔ rises := by
        rw [State.rose_completed hns' hp, hstroke', hstroke, hflag, hflag, hflag, hlines, hwaits, Record.isRefusal_iff]
        exact and_iff_left hst
      refine ⟨fun h => ?_, fun h => ?_⟩
      · rw [State.notice_of_noticed (hrises.mpr h)]
        have habandoned := State.completed_abandonedTo (a := x.request.addr) (okay := okay) (adv := x.advances) hvq hp
        rw [← hv] at habandoned ⊢
        exact habandoned
      · rw [State.notice_of_unnoticed (mt hrises.mp h), hstroke', hstroke]
        exact ⟨hst, rfl, rfl, rfl⟩
  · have hnot : ¬ x.discard = true := by simp [hd]
    have hx' : (s.freePort .s).arbiter.inflight = x :: rest := hx
    rw [exec_recordWriteComplete hx' hk, if_neg hnot] at ht
    obtain rfl := Host.Outcome.next.inj ht
    rw [exec_recordWriteComplete hx hk, if_neg hnot, exec_armWaitEnd]
    generalize hv : ({ s with arbiter := { s.arbiter with inflight := rest } } : State) = v
    have hvq : v.writer.queue = e :: es := by
      rw [← hv]
      exact hq
    rw [State.completeRecord_frees hvq hr, ← hv]
    rfl

end Sys2Proof.Machine

/-! PROOFS. A record that meets the control region, and what follows the completion of a record (R87, R106, R122, R123, R184). -/

namespace Sys2Proof.Machine

/-- Settles O51. -/
theorem recordMeetingTheRegion : Obligations.RecordMeetingTheRegion := by
  intro s e es first hl hbusy hq hfull hturn hmeets hw next
  have hchoice : s.writerChoice = .toRegion := by
    rw [(State.writerChoice_free hl hbusy).1 ⟨by simp [hq], hfull, hturn⟩, if_pos hmeets]
  have hexec : exec (.recordToControlRegion first) s =
      .next (s.headIssued.completeRecord (s.ringAddr s.writer.producer) false true first) := by
    change execRecordToControlRegion first s = _
    rw [execRecordToControlRegion, if_pos hchoice]
  have haddr : s.ringAddr s.writer.producer = toAddr (ringBaseField s.recipe.shadow + s.writer.producer * 32) := rfl
  have hissued := State.headIssued_eq hq
  have hkept : s.headIssued.arbiter = s.arbiter ∧ s.headIssued.recipe = s.recipe ∧ s.headIssued.remap = s.remap ∧
      s.headIssued.checker = s.checker ∧ s.headIssued.writer.producer = s.writer.producer ∧
      s.headIssued.writer.lap = s.writer.lap ∧ s.headIssued.writer.lastIssued = .record ∧
      s.headIssued.writer.queue = { e with issued := true } :: es ∧ s.headIssued.portS = s.portS ∧
      s.headIssued.walker.written = s.walker.written + (if e.record.isPin then 1 else 0) := by
    rw [hissued]
    exact ⟨rfl, rfl, rfl, rfl, rfl, rfl, rfl, rfl, rfl, rfl⟩
  obtain ⟨h1, h2, h3, h4, h5, h6, h7, h8, h9, h10⟩ := hkept
  have hcap : s.headIssued.ringCapacity = s.ringCapacity := State.ringCapacity_congr (by rw [h2])
  obtain ⟨g1, g2, g3, g4, -, g6, g7, g8, g9, -, g11, g12, g13⟩ := State.completeRecord_spec (e := { e with issued := true }) h8
    (fun hr => (State.waitingFor_congr h9 _).trans (hw hr)) (s.ringAddr s.writer.producer) false true first
  refine ⟨_, hexec, by rw [g1, h1], by rw [g12, h7], ?_, ?_, g6, ?_, ?_, fun h => ?_, fun h => ?_, by rw [g7, h10], by rw [g2, h2],
    by rw [g3, h3], by rw [g4, h4]⟩
  · rw [g8, h5, hcap]
    rfl
  · rw [g9, h5, h6, hcap]
    rfl
  · exact g13 _ (.inr (.inr (.inr ⟨rfl, rfl⟩)))
  · rw [g11, haddr]
    rfl
  · exact g13 _ (.inr (.inl ⟨(Record.isStroke_iff _).mpr h, rfl⟩))
  · exact g13 _ (.inr (.inr (.inl ⟨(Record.isRefusal_iff _).mpr h, rfl⟩)))

end Sys2Proof.Machine

/-! PROOFS. What follows the completion of a record: the PAUSED walk goes on, an owed REFUSAL is handed off, REPORTING ends
(R87, R106, R122, R123). -/

namespace Sys2Proof.Machine

/-! ## The completion outside ARMING -/

section
variable {s : State} {e : ReportEntry} {es : List ReportEntry} {a : Word} {okay adv : Bool}

/-- Outside ARMING, the completion of a record that is no STROKE_VERDICT gives no notice. -/
theorem State.completeRecord_quiet (hq : s.writer.queue = e :: es)
    (hw : e.record.isRefusal = true → s.waitingFor .s .refusalEntry = none) (hr : e.record.isStroke = false)
    (hs : (s.freeHead a okay adv).stroke.state ≠ .arming) (first : Bool) :
    s.completeRecord a okay adv first = s.completed e a okay adv := by
  have hquiet : ∀ b, ((s.freeHead a okay adv).completionFlags e.record okay).notice b = s.completed e a okay adv := fun b =>
    State.notice_of_not_arming (by simpa using hs) b
  rw [State.completeRecord_of_none hq hw]
  simp only [State.endReporting_of_not_stroke hr, hquiet, ite_self]

theorem State.completed_keeps (s : State) (e : ReportEntry) (a : Word) (okay adv : Bool) :
    (s.completed e a okay adv).walker = (s.freeHead a okay adv).walker ∧
      (s.completed e a okay adv).stroke = (s.freeHead a okay adv).stroke ∧
      (s.completed e a okay adv).records = (s.freeHead a okay adv).records := by
  simp [State.completed, State.records]

/-! ## The PAUSED walk goes on -/

/-- The walk's record fills the freed entry and no REFUSAL is owed: the head's going ends there (R122). -/
theorem State.freeHead_of_resumed (ho : (s.headGone a okay adv).resumeWalk.stroke.owed = []) :
    (s.freeHead a okay adv).walker = (s.headGone a okay adv).resumeWalk.walker ∧
      (s.freeHead a okay adv).stroke = (s.headGone a okay adv).resumeWalk.stroke ∧
      (s.freeHead a okay adv).records = (s.headGone a okay adv).resumeWalk.records := by
  rw [State.freeHead_eq, State.refillEntries, State.handOffOwed_of_none ho]
  simp [State.records]

theorem State.headGone_free (s : State) (a : Word) (okay adv : Bool) : (s.headGone a okay adv).generalFree = true ↔
    (s.writer.queue.tail.filter fun y => y.record.general).length < 14 := by
  have hqueue : (s.headGone a okay adv).writer.queue = s.writer.queue.tail := by simp
  rw [State.generalFree_entries, State.entries, hqueue]

theorem State.headGone_records (s : State) (a : Word) (okay adv : Bool) :
    (s.headGone a okay adv).records = s.writer.queue.tail.map ReportEntry.record := by
  simp [State.records]

/-- The full ring after the head has gone and the producer has gone on (R123). -/
theorem State.headGone_ringFull (s : State) (a : Word) (okay : Bool) : (s.headGone a okay true).ringFull = true ↔
    ((s.writer.producer + 1) % s.ringCapacity + 1) % s.ringCapacity = s.writer.consumer := by
  have hcap : (s.headGone a okay true).ringCapacity = s.ringCapacity := State.ringCapacity_congr (by simp)
  rw [State.ringFull, hcap, (s.headGone_ring a okay true).1]
  simp

theorem State.resumeWalk_pin (hp : s.walker.state = .paused) (hh : s.walker.held = some .pinRecord) :
    s.resumeWalk = if s.generalFree then s.queuePin s.walker.cursorCell
      else if s.omits then s.omitPin s.walker.cursorCell else s := by
  simp [State.resumeWalk, hp, hh]

theorem State.resumeWalk_slot (hp : s.walker.state = .paused) (hh : s.walker.held = some .slotVerdict) :
    s.resumeWalk = if s.generalFree then s.queueSlot else s := by
  simp [State.resumeWalk, hp, hh]

theorem State.composePin_congr {s t : State} (h1 : t.checker = s.checker) (h2 : t.recipe = s.recipe) (h3 : t.stroke = s.stroke)
    (n c : Nat) : t.composePin n c = s.composePin n c := by
  rw [State.composePin, State.composePin, State.pin, State.pin, State.strokeNumber, State.strokeNumber, h1, h2, h3]

theorem State.composeSlot_congr {s t : State} (h1 : t.checker = s.checker) (h2 : t.recipe = s.recipe) (h3 : t.stroke = s.stroke)
    (n : Nat) : t.composeSlot n = s.composeSlot n := by
  have hpins : t.pinsChecked n = s.pinsChecked n := by
    simp only [State.pinsChecked, State.pin, h1, h2]
  rw [State.composeSlot, State.composeSlot, hpins, State.slotFailing, State.slotFailing, State.strokeNumber, State.strokeNumber, h1, h2, h3]

theorem State.composeStroke_congr {s t : State} (h1 : t.checker = s.checker) (h3 : t.stroke = s.stroke) (o : StrokeOutcome) :
    t.composeStroke o = { s.composeStroke o with rejectMask := t.walker.rejectMask } := by
  simp [State.composeStroke, State.strokeNumber, h1, h3]

/-- The SLOT_VERDICT of the cursor's slot is queued, and the walk goes on or ends (R109, R116 to R118). -/
theorem State.queueSlot_spec {o : StrokeOutcome} (ho : s.stroke.outcome = some o) :
    let n := s.walker.cursorSlot
    let verdict := s.composeSlot n
    let last : Prop := ∀ k, n < k → k < 4 → Plan.active s.stroke.latched k = false
    let t := s.queueSlot
    (∀ k < 4, t.walker.rejectMask.getLsbD k = (s.walker.rejectMask.getLsbD k || (k == n && verdict.outcome == .reject))) ∧
      (¬ last → t.records = s.records ++ [.slot verdict] ∧ t.walker.state = .walking ∧ n < t.walker.cursorSlot ∧
        t.walker.cursorSlot < 4 ∧ Plan.active s.stroke.latched t.walker.cursorSlot = true ∧
        (∀ k, n < k → k < t.walker.cursorSlot → Plan.active s.stroke.latched k = false) ∧
        t.walker.cursorCell = firstCell s.recipe.shadow t.walker.cursorSlot ∧ t.stroke = s.stroke) ∧
      (last → t.walker.state = .stopped ∧ t.stroke = { s.stroke with state := .reporting } ∧
        t.records = s.records ++ [.slot verdict, .stroke { s.composeStroke o with rejectMask := t.walker.rejectMask }]) := by
  intro n verdict last t
  obtain ⟨hstroke, hchecker, hrecipe, hwalker, hcur, hrecords, -⟩ := s.slotQueued_spec
  have ht : t = s.slotQueued.nextSlot := s.queueSlot_eq
  have hmask : ∀ k < 4, s.slotQueued.walker.rejectMask.getLsbD k =
      (s.walker.rejectMask.getLsbD k || (k == n && verdict.outcome == .reject)) := fun k hk => by
    rw [hwalker]
    exact s.getLsbD_markReject verdict hk
  by_cases hl : last
  · have hend : t = s.slotQueued.queueStrokeVerdict o := by
      rw [ht, State.nextSlot_of_last (by rw [hstroke, ho])]
      rw [hcur, hstroke]
      exact hl
    rw [hend, State.queueStrokeVerdict_walker, State.queueStrokeVerdict_stroke]
    refine ⟨hmask, fun h => absurd hl h, fun _ => ⟨rfl, by rw [hstroke], ?_⟩⟩
    rw [State.records_of_queue (State.queueStrokeVerdict_queue _ _), hrecords, State.composeStroke_congr hchecker hstroke]
    simp [verdict, n]
  · obtain ⟨k, hlow, hhigh, hactive, hfirst, hnext⟩ := State.nextSlot_of_more (s := s.slotQueued) (by
      rw [hcur, hstroke]
      exact hl)
    rw [hcur, hstroke] at hfirst
    rw [hcur] at hlow
    rw [hstroke] at hactive
    rw [ht, hnext]
    exact ⟨hmask, fun _ => ⟨hrecords, rfl, hlow, hhigh, hactive, hfirst, by rw [hrecipe], hstroke⟩, fun h => absurd h hl⟩

end

/-! ## The obligation -/

/-- The transaction answered is no longer outstanding, and nothing else of the state has changed. -/
theorem State.answered_congr {s v : State} {rest : List Transaction}
    (hv : ({ s with arbiter := { s.arbiter with inflight := rest } } : State) = v) :
    v.writer = s.writer ∧ v.stroke = s.stroke ∧ v.walker = s.walker ∧ v.lines = s.lines ∧ v.recipe = s.recipe ∧
      v.remap = s.remap ∧ v.checker = s.checker ∧ v.protection = s.protection ∧ v.portS = s.portS ∧
      v.ringCapacity = s.ringCapacity ∧ v.portA = s.portA := by
  rw [← hv]
  exact ⟨rfl, rfl, rfl, rfl, rfl, rfl, rfl, rfl, rfl, rfl, rfl⟩

/-! ### The end of REPORTING -/

section
variable {s : State} {e : ReportEntry} {es : List ReportEntry} {a : Word} {okay adv : Bool}

theorem State.freeHead_reporting (hp : s.walker.state ≠ .paused) : ∃ v, (s.freeHead a okay adv).stroke = { s.stroke with owed := v } ∧
    (s.freeHead a okay adv).refusals = (s.writer.queue.tail.filterMap fun e => Record.refusal? e.record) ++ s.stroke.owed := by
  obtain ⟨v, hv⟩ := State.freeHead_stroke hp a okay adv
  exact ⟨v, hv, State.freeHead_refusals hp a okay adv⟩

theorem State.endReporting_of_reporting {s : State} {r : Record} (hr : r.isStroke = true) (hs : s.stroke.state = .reporting) :
    s.endReporting r = s.enterIdle := if_pos ⟨hr, hs⟩

/-- Without a notice, REPORTING ends in either order of the blocks: to IDLE, or to ARMING with the pending plan (R86, R106). -/
theorem State.completeStroke_stroke (hq : s.writer.queue = e :: es) (hr : e.record.isStroke = true) (hs : s.stroke.state = .reporting)
    (hp : s.walker.state ≠ .paused) (first : Bool) (h : first = true ∨ s.stroke.pendingPlan = none) :
    ∃ v, (s.completeRecord a okay adv first).stroke = match s.stroke.pendingPlan with
      | none => { s.stroke with owed := v, state := .idle }
      | some p => { s.stroke with owed := v, state := .arming, latched := p, walk := .check 1, pendingPlan := none } := by
  obtain ⟨v, hv, -⟩ := State.freeHead_reporting (a := a) (okay := okay) (adv := adv) hp
  have hst : (s.freeHead a okay adv).stroke.state = .reporting := by rw [hv, ← hs]
  refine ⟨v, ?_⟩
  rw [State.completeRecord_of_stroke hq hr]
  cases first with
  | true =>
    rw [if_pos rfl, State.notice_of_not_arming (by simp [hst]), State.endReporting_of_reporting hr (by simp [hst]),
      State.enterIdle_stroke]
    cases hpend : s.stroke.pendingPlan <;> simp [hv, hpend]
  | false =>
    have hpend : s.stroke.pendingPlan = none := by simpa using h
    have hidle : (s.freeHead a okay adv).enterIdle.stroke = { s.stroke with owed := v, state := .idle } := by
      rw [State.enterIdle_stroke, hv]
      simp [hpend]
    rw [if_neg (by decide), State.endReporting_of_reporting hr hst,
      State.notice_of_not_arming (by rw [State.completionFlags_stroke, hidle]; simp), State.completionFlags_stroke, hidle, hpend]

/-- REPORTING ends to ARMING with the pending plan before the flags are set, and VERDICT, clear and enabled, abandons that
arming (R86, R91, log 9). -/
theorem State.completeStroke_abandoned {q : Plan} (hq : s.writer.queue = e :: es) (hr : e.record.isStroke = true)
    (hs : s.stroke.state = .reporting) (hp : s.walker.state ≠ .paused) (hpend : s.stroke.pendingPlan = some q)
    (hclear : s.flagSet .verdict = false) (hen : s.lines.enables.getLsbD 0 = true) :
    s.completeRecord a true adv false =
      ((s.freeHead a true adv).enterIdle.completionFlags e.record true).abandonArming := by
  obtain ⟨v, hv, -⟩ := State.freeHead_reporting (a := a) (okay := true) (adv := adv) hp
  have hst : (s.freeHead a true adv).stroke.state = .reporting := by rw [hv, ← hs]
  have hmono : ∀ f, s.flagSet f = true → (s.freeHead a true adv).flagSet f = true := fun f hf =>
    (State.flagSet_freeHead hp a true adv f).mpr (.inl hf)
  have hlines : (s.freeHead a true adv).enterIdle.lines = (s.freeHead a true adv).lines := by simp
  have henables : (s.freeHead a true adv).lines.enables = s.lines.enables := by simp [State.freeHead_eq]
  rw [State.completeRecord_of_stroke hq hr, if_neg (by decide), State.endReporting_of_reporting hr hst, hlines,
    State.notice_before hmono]
  refine State.notice_of_noticed ⟨(State.rose_iff _ _).mpr ⟨.verdict, ?_, hclear, ?_⟩, ?_⟩
  · exact (State.flagSet_completionFlags _ _ _ _).mpr (.inr (.inl ⟨hr, rfl⟩))
  · have hkeep : ((s.freeHead a true adv).enterIdle.completionFlags e.record true).lines.enables = s.lines.enables := by
      simp [henables]
    rw [hkeep]
    exact hen
  · rw [State.completionFlags_stroke, State.enterIdle_stroke, hv]
    simp [hpend]

end

/-- Settles O50. -/
theorem completionConsequences : Obligations.CompletionConsequences := by
  refine ⟨fun s x rest e es okay first hx hk hd hq hs hns hw => ?_, fun s x rest e es v hx hk hd hq hv hs hp ho => ?_⟩
  · intro room next gives
    generalize hv : ({ s with arbiter := { s.arbiter with inflight := rest } } : State) = v
    obtain ⟨hwriter, hstroke, hwalker, -, hrecipe, -, hchecker, -, hport, hcap, -⟩ := State.answered_congr hv
    have hvq : v.writer.queue = e :: es := by rw [hwriter, hq]
    have hvw : e.record.isRefusal = true → v.waitingFor .s .refusalEntry = none := fun h =>
      (State.waitingFor_congr hport _).trans (hw h)
    have hr : e.record.isStroke = false := Bool.eq_false_iff.mpr fun h => hns ((Record.isStroke_iff _).mp h)
    have hexec : (v.freeHead x.request.addr okay x.advances).stroke.state ≠ .arming →
        exec (.recordWriteComplete okay first) s = .next (v.completed e x.request.addr okay x.advances) := fun h => by
      rw [exec_recordWriteComplete hx hk, if_neg (by simp [hd]), hv, State.completeRecord_quiet hvq hvw hr h]
    obtain ⟨cwalker, cstroke, crecords⟩ := v.completed_keeps e x.request.addr okay x.advances
    generalize hg : v.headGone x.request.addr okay x.advances = g
    have hgwalker : g.walker = s.walker := by rw [← hg, ← hwalker]; simp
    have hgstroke : g.stroke = s.stroke := by rw [← hg, ← hstroke]; simp
    have hgrecipe : g.recipe = s.recipe := by rw [← hg, ← hrecipe]; simp
    have hgchecker : g.checker = s.checker := by rw [← hg, ← hchecker]; simp
    have hgrecords : g.records = es.map ReportEntry.record := by rw [← hg, State.headGone_records, hvq]; rfl
    have hroom : g.generalFree = true ↔ room := by
      rw [← hg, State.headGone_free, hvq]
      exact Iff.rfl
    have hresumed : g.resumeWalk.stroke.owed = [] → g.resumeWalk.stroke.state ≠ .arming →
        exec (.recordWriteComplete okay first) s = .next (v.completed e x.request.addr okay x.advances) ∧
        (v.completed e x.request.addr okay x.advances).walker = g.resumeWalk.walker ∧
        (v.completed e x.request.addr okay x.advances).stroke = g.resumeWalk.stroke ∧
        (v.completed e x.request.addr okay x.advances).records = g.resumeWalk.records := fun ho hst => by
      obtain ⟨f1, f2, f3⟩ := State.freeHead_of_resumed (s := v) (a := x.request.addr) (okay := okay) (adv := x.advances) (by rw [hg]; exact ho)
      rw [hg] at f1 f2 f3
      exact ⟨hexec (by rw [f2]; exact hst), by rw [cwalker, f1], by rw [cstroke, f2], by rw [crecords, f3]⟩
    have hfullgives : x.advances = true → (g.ringFull = true ↔ (next + 1) % s.ringCapacity = s.writer.consumer) := fun ha => by
      rw [← hg, ha, State.headGone_ringFull, hwriter, hcap]
    have homits : x.advances = true → ¬ room → (g.omits = true ↔ gives) := fun ha hnot => by
      rw [State.omits_iff (Bool.eq_false_iff.mpr (mt hroom.mp hnot)), hfullgives ha, hgstroke]
      simp [gives, ha]
    refine ⟨fun hp hh ho hroom' => ?_, fun o hp hh ho hroom' hout _ => ?_, fun hp hh ho hnot hgives => ?_, fun hp ho hnot hcase => ?_,
      fun r rs hp ho hrefusal hfree => ?_⟩
    · have hwalk : g.resumeWalk = g.queuePin s.walker.cursorCell := by
        rw [State.resumeWalk_pin (by rw [hgwalker, hp]) (by rw [hgwalker, hh]), if_pos (hroom.mpr hroom'), hgwalker]
      obtain ⟨h1, h2⟩ := g.queuePin_records s.walker.cursorCell
      have hkeep : (g.queuePin s.walker.cursorCell).stroke = s.stroke := by simp [hgstroke]
      obtain ⟨hex, kwalker, -, krecords⟩ := hresumed (by rw [hwalk, hkeep, ho]) (by rw [hwalk, hkeep, hs]; decide)
      rw [hwalk] at kwalker krecords
      refine ⟨_, hex, by rw [kwalker, h2], by rw [kwalker, h2], ?_⟩
      rw [krecords, h1, hgrecords, hgwalker, State.composePin_congr hgchecker hgrecipe hgstroke]
    · intro n verdict last
      have hwalk : g.resumeWalk = g.queueSlot := by
        rw [State.resumeWalk_slot (by rw [hgwalker, hp]) (by rw [hgwalker, hh]), if_pos (hroom.mpr hroom')]
      obtain ⟨hmask, hmore, hlast⟩ := State.queueSlot_spec (s := g) (o := o) (by rw [hgstroke, hout])
      simp only [hgwalker, hgstroke, hgrecipe, hgrecords, State.composeSlot_congr hgchecker hgrecipe hgstroke] at hmask hmore hlast
      have hcases : g.queueSlot.stroke = s.stroke ∨ g.queueSlot.stroke = { s.stroke with state := .reporting } := by
        by_cases hl : last
        · exact .inr (hlast hl).2.1
        · obtain ⟨-, -, -, -, -, -, -, h⟩ := hmore hl
          exact .inl h
      have howed : g.resumeWalk.stroke.owed = [] ∧ g.resumeWalk.stroke.state ≠ .arming := by
        rw [hwalk]
        obtain h | h := hcases <;> rw [h]
        · exact ⟨ho, by rw [hs]; decide⟩
        · exact ⟨ho, by simp⟩
      obtain ⟨hex, kwalker, kstroke, krecords⟩ := hresumed howed.1 howed.2
      rw [hwalk] at kwalker kstroke krecords
      refine ⟨_, hex, ?_⟩
      rw [kwalker, kstroke, krecords]
      refine ⟨hmask, fun h => ?_, fun h => ?_⟩
      · obtain ⟨h1, h2, h3, h4, h5, h6, h7, -⟩ := hmore h
        exact ⟨h1, h2, h3, h4, h5, h6, h7⟩
      · obtain ⟨h1, h2, h3⟩ := hlast h
        refine ⟨h1, by rw [h2], ?_⟩
        rw [h3, State.composeStroke_congr hgchecker hgstroke]
    · have hwalk : g.resumeWalk = g.omitPin s.walker.cursorCell := by
        rw [State.resumeWalk_pin (by rw [hgwalker, hp]) (by rw [hgwalker, hh]), if_neg (mt hroom.mp hnot),
          if_pos ((homits hgives.2.1 hnot).mpr hgives), hgwalker]
      have hkeep : (g.omitPin s.walker.cursorCell).stroke = s.stroke := by simp [hgstroke]
      obtain ⟨hex, kwalker, -, krecords⟩ := hresumed (by rw [hwalk, hkeep, ho]) (by rw [hwalk, hkeep, hs]; decide)
      rw [hwalk] at kwalker krecords
      refine ⟨_, hex, ?_⟩
      rw [kwalker, krecords, ← hgwalker, ← hgrecords]
      exact ⟨rfl, rfl, rfl, rfl, rfl⟩
    · have hwalk : g.resumeWalk = g := by
        obtain hh | ⟨hh, ha, hng⟩ := hcase
        · rw [State.resumeWalk_slot (by rw [hgwalker, hp]) (by rw [hgwalker, hh]), if_neg (mt hroom.mp hnot)]
        · rw [State.resumeWalk_pin (by rw [hgwalker, hp]) (by rw [hgwalker, hh]), if_neg (mt hroom.mp hnot),
            if_neg (mt (homits ha hnot).mp hng)]
      obtain ⟨hex, kwalker, -, krecords⟩ := hresumed (by rw [hwalk, hgstroke, ho]) (by rw [hwalk, hgstroke, hs]; decide)
      rw [hwalk] at kwalker krecords
      exact ⟨_, hex, by rw [kwalker, hgwalker], by rw [krecords, hgrecords]⟩
    · have hfree' : (v.writer.queue.tail.filter fun y => y.record.isRefusal) = [] := by
        rw [hvq]
        exact List.length_eq_zero_iff.mp hfree
      obtain ⟨h1, h2⟩ := State.freeHead_of_owed (s := v) (by rw [hwalker]; exact hp) (by rw [hstroke, ho]) hfree' x.request.addr okay
        x.advances
      refine ⟨_, hexec (by rw [h1, hstroke, hs]; decide), by rw [cstroke, h1], ?_⟩
      rw [crecords, State.records, h2, hvq]
      simp
  · generalize hu : ({ s with arbiter := { s.arbiter with inflight := rest } } : State) = u
    obtain ⟨hwriter, hstroke, hwalker, hlines, -⟩ := State.answered_congr hu
    have huq : u.writer.queue = e :: es := by rw [hwriter, hq]
    have hr : e.record.isStroke = true := (Record.isStroke_iff _).mpr ⟨v, hv⟩
    have hus : u.stroke.state = .reporting := by rw [hstroke, hs]
    have hup : u.walker.state ≠ .paused := by rwa [hwalker]
    have hexec : ∀ okay first, exec (.recordWriteComplete okay first) s =
        .next (u.completeRecord x.request.addr okay x.advances first) := fun okay first => by
      rw [exec_recordWriteComplete hx hk, if_neg (by simp [hd]), hu]
    refine ⟨fun okay first hnone => ?_, fun okay q hpend => ?_, fun q hpend hclear hen => ?_⟩
    · obtain ⟨o, ht⟩ := State.completeStroke_stroke (a := x.request.addr) (okay := okay) (adv := x.advances) huq hr hus hup first
        (.inr (by rw [hstroke, hnone]))
      simp only [hstroke, hnone] at ht
      exact ⟨_, hexec okay first, by rw [ht], by rw [ht], by rw [ht]⟩
    · obtain ⟨o, ht⟩ := State.completeStroke_stroke (a := x.request.addr) (okay := okay) (adv := x.advances) huq hr hus hup true
        (.inl rfl)
      simp only [hstroke, hpend] at ht
      exact ⟨_, hexec okay true, by rw [ht], by rw [ht], by rw [ht], by rw [ht]⟩
    · rw [← hstroke] at hpend
      have hend := State.completeStroke_abandoned (a := x.request.addr) (adv := x.advances) huq hr hus hup hpend
        (by rw [State.flagSet, hlines]; exact hclear) (by rw [hlines]; exact hen)
      obtain ⟨o, ho', hheld⟩ := State.freeHead_reporting (a := x.request.addr) (okay := true) (adv := x.advances) hup
      have howed := u.freeHead_owedOk x.request.addr true x.advances
      generalize hg : u.freeHead x.request.addr true x.advances = g at hend ho' hheld howed
      generalize hw : g.enterIdle.completionFlags e.record true = w at hend
      have hwstroke : w.stroke = { u.stroke with owed := o, state := .arming, latched := q, walk := .check 1, pendingPlan := none } := by
        rw [← hw, State.completionFlags_stroke, State.enterIdle_stroke, ho']
        simp [hpend]
      have hwqueue : w.writer.queue = g.writer.queue := by
        rw [← hw]
        simp
      have hwrefusals : w.refusals = g.refusals := State.refusals_congr hwqueue (by rw [hwstroke, ho'])
      have hwowed : w.owedOk := by
        unfold State.owedOk State.refusalOccupied at howed ⊢
        rw [State.entries_congr hwqueue, hwstroke]
        rw [ho'] at howed
        exact howed
      obtain ⟨hnone, -⟩ := w.refuseArming_next (w.refusalOf .abandoned)
      obtain ⟨hidle, hlatched⟩ := hnone (by rw [hwstroke])
      refine ⟨_, (hexec true false).trans (congrArg _ hend), hidle, hlatched.trans (by rw [hwstroke]), ?_⟩
      rw [State.abandonArming, State.refuseArming_refusals w _ hwowed, hwrefusals, hheld, State.refusalOf, State.strokeNumber, hwstroke,
        hwriter, hstroke, hq, State.refusals, hq]
      simp [hv, Record.refusal?]

end Sys2Proof.Machine

/-! PROOFS. The answers to forwarded requests and to grid writes, and the waits that a grid write's answer ends (R62, R175, R187,
R193; log 3). -/

namespace Sys2Proof.Machine

/-! ## The answer to a forwarded request -/

theorem exec_passThroughAnswer {s : State} {x : Transaction} {rest : List Transaction} {p : PortId}
    (hx : s.arbiter.inflight = x :: rest) (hk : x.kind = .passThrough p) (okay : Bool) (data : LineData) :
    exec (.passThroughAnswer okay data) s =
      .next (({ s with arbiter := { s.arbiter with inflight := rest } } : State).answerPass p okay data) := by
  have hold : s.oldest TransactionKind.isPass = some x := State.oldest_of_kind hx (by rw [hk]; rfl)
  change execPassThroughAnswer okay data s = _
  simp only [execPassThroughAnswer, hold, hk, State.popAnswered_eq hx]

theorem State.answerPass_outstanding {s : State} {p : PortId} {r : Request} {i : Bool} (h : (s.port p).status = .outstanding r i)
    (okay : Bool) (data : LineData) : s.answerPass p okay data =
      s.setPort p { s.port p with status := .free, answer := some (passAnswer okay data r) } := by
  rw [State.answerPass, h]
  rfl

theorem State.answerPass_abandoned {s : State} {p : PortId} {r : Request} {i : Bool} (h : (s.port p).status = .abandoned r i)
    (okay : Bool) (data : LineData) : s.answerPass p okay data = s.setPort p { s.port p with status := .free } := by
  rw [State.answerPass, h]
  rfl

theorem State.port_answered (s : State) (rest : List Transaction) (p : PortId) :
    ({ s with arbiter := { s.arbiter with inflight := rest } } : State).port p = s.port p := by cases p <;> rfl

/-! ## The answer to a grid write -/

/-- The answer to a grid write is taken, or void after a warm reset (R192, R195). -/
theorem exec_gridWriteAnswer {s : State} {x : Transaction} {rest : List Transaction} (hx : s.arbiter.inflight = x :: rest)
    (hk : x.kind = .remapBeat) (okay : Bool) : exec (.gridWriteAnswer okay) s =
      .next (if x.discard then { s with arbiter := { s.arbiter with inflight := rest } }
        else (({ s with arbiter := { s.arbiter with inflight := rest } } : State).beatAnswered okay).endQueueWaits) := by
  have hold : s.oldest (· == .remapBeat) = some x := State.oldest_of_kind hx (by simp [hk])
  change execGridWriteAnswer okay s = _
  simp only [execGridWriteAnswer, hold, State.popAnswered_eq hx]

/-- The beat that is answered leaves the remap queue (R62). -/
def State.beatGone (s : State) (es : List RemapEntry) : State := { s with remap := { s.remap with queue := es } }

/-- The beat that is answered ERROR has left the remap queue, MEMERR not yet being set (R187, R188). -/
def State.beatFailed (s : State) (e : RemapEntry) (es : List RemapEntry) : State :=
  { s.beatGone es with
    writer := { s.writer with memErrAddr := e.addr, dirty := true }
    stroke := { s.stroke with gridWriteError := s.stroke.gridWriteError || e.current } }

section
variable {s : State} {e : RemapEntry} {es : List RemapEntry}

theorem State.beatAnswered_okay (hq : s.remap.queue = e :: es) : s.beatAnswered true = s.beatGone es := by
  rw [State.beatAnswered, hq]
  rfl

theorem State.beatAnswered_error (hq : s.remap.queue = e :: es) : s.beatAnswered false = (s.beatFailed e es).raise .memerr := by
  rw [State.beatAnswered, hq]
  simp only [State.memoryError_eq]
  cases hc : e.current <;> simp [State.beatFailed, State.beatGone, State.markDirty, hc]

theorem State.setFlag_beatFailed : (s.beatFailed e es).setFlag .memerr = { s.beatGone es with
    writer := { s.writer with memErrAddr := e.addr, dirty := true }
    lines := { s.lines with flags := s.lines.flags ||| 0x80#9 }
    stroke := { s.stroke with gridWriteError := s.stroke.gridWriteError || e.current } } := by
  have hbit : BitVec.twoPow 9 EventFlag.memerr.bit = 0x80#9 := by decide
  rw [State.setFlag_eq, hbit]
  rfl

/-- A grid write answered ERROR that gives a notice in ARMING abandons it (R91, R138). -/
theorem State.beatFailed_abandonedTo (ho : s.owedOk)
    (h : s.stroke.state = .arming ∧ s.flagSet .memerr = false ∧ s.lines.enables.getLsbD 7 = true) :
    s.abandonedTo ((s.beatFailed e es).raise .memerr) ∧
      ((s.beatFailed e es).raise .memerr).stroke.gridWriteError = (s.stroke.gridWriteError || e.current) := by
  have hfailed : (s.beatFailed e es).stroke.state = .arming ∧ (s.beatFailed e es).flagSet .memerr = false ∧
      (s.beatFailed e es).lines.enables.getLsbD EventFlag.memerr.bit = true := h
  rw [State.raise_of_noticed hfailed]
  generalize hw : (s.beatFailed e es).setFlag .memerr = w
  have hstroke : w.stroke = (s.beatFailed e es).stroke := by rw [← hw]; simp
  have hqueue : w.writer.queue = s.writer.queue := by rw [← hw, State.setFlag_beatFailed]
  have howed : w.stroke.owed = s.stroke.owed := by rw [hstroke]; rfl
  have hwo : w.owedOk := by
    unfold State.owedOk State.refusalOccupied at ho ⊢
    rwa [State.entries_congr hqueue, howed]
  obtain ⟨h1, h2, h3, h4, h5, h6, h7⟩ := w.refuseArming_counts (w.refusalOf .abandoned)
  obtain ⟨hnone, hsome⟩ := w.refuseArming_next (w.refusalOf .abandoned)
  have hchecker : w.abandonArming.checker = s.checker := by
    rw [← hw, State.setFlag_beatFailed]
    simp [State.abandonArming, State.beatGone]
  have hremap : w.abandonArming.remap.sequence = s.remap.sequence := by
    rw [← hw, State.setFlag_beatFailed]
    simp [State.abandonArming, State.beatGone]
  have hrefusals : w.abandonArming.refusals = s.refusals ++ [s.refusalOf .abandoned] := by
    rw [State.abandonArming, State.refuseArming_refusals w _ hwo, State.refusals_congr hqueue howed, State.refusalOf,
      State.refusalOf, State.strokeNumber, State.strokeNumber, hstroke]
    rfl
  rw [hstroke] at hnone hsome h1 h2 h3 h4 h5 h6
  exact ⟨⟨hrefusals, h7, hnone, hsome, hchecker, hremap, h1, h2, h3, h4, h5⟩, h6⟩

end

/-! ## The waits that the answer ends -/

/-- A wait on queued grid beats for a plain request: over when it meets none of the beats that remain (R193). -/
theorem State.endQueueWait_hazard {s : State} {p : PortId} {r : Request} (hs : (s.port p).status = .waiting r .hazard)
    (hr : s.inRegion r.addr.toNat = false) (hl : ∀ w, r = .write w → s.inLanding w.addr.toNat = false) :
    s.endQueueWait p = if s.hazard r then s else s.setPort p { s.port p with status := .outstanding r false } := by
  have hroom : s.waitingFor p .room = none := by simp [State.waitingFor, hs]
  rw [State.endQueueWait, endWait_of_none hroom, endWait_eq hs, State.waitOver]
  cases hh : s.hazard r with
  | true => rfl
  | false =>
    have hplain := State.classify_plain (s := s.freePort p) (p := p) ((s.inRegion_freePort p _).trans hr) fun w hw =>
      (s.inLanding_freePort p _).trans (hl w hw)
    rw [hplain, State.passThrough_forward p ((s.hazard_freePort p r).trans hh), State.forward_freePort]
    rfl

theorem State.waitingFor_setPort_ne (s : State) {p q : PortId} (h : q ≠ p) (np : NearPort) (c : WaitCause) :
    (s.setPort p np).waitingFor q c = s.waitingFor q c := by
  rw [State.waitingFor, State.waitingFor, State.port_setPort_ne s p q np h]

/-- Only port p waits on the remap queue: the waits that end are its own. -/
theorem State.endQueueWaits_of_other {s : State} (p : PortId)
    (ho : s.waitingFor (PortId.other p) .room = none ∧ s.waitingFor (PortId.other p) .hazard = none)
    (hp : (s.endQueueWait p).waitingFor (PortId.other p) .room = none ∧
      (s.endQueueWait p).waitingFor (PortId.other p) .hazard = none) : s.endQueueWaits = s.endQueueWait p := by
  cases p with
  | a => exact endQueueWait_of_none (p := .s) hp
  | s =>
    rw [State.endQueueWaits]
    exact congrArg (fun t : State => t.endQueueWait .s) (endQueueWait_of_none (p := .a) ho)

theorem State.beatAnswered_setPort (s : State) (p : PortId) (np : NearPort) (okay : Bool) :
    (s.setPort p np).beatAnswered okay = (s.beatAnswered okay).setPort p np := by
  obtain ⟨-, -, -, -, -, -, -, hremap⟩ := s.setPort_fields p np
  cases hq : s.remap.queue with
  | nil => simp only [State.beatAnswered, hremap, hq]
  | cons e es =>
    cases okay with
    | true =>
      rw [State.beatAnswered_okay hq, State.beatAnswered_okay (hremap ▸ hq)]
      cases p <;> rfl
    | false =>
      rw [State.beatAnswered_error hq, State.beatAnswered_error (hremap ▸ hq), ← State.raise_setPort]
      cases p <;> rfl

/-! ## The obligation -/

/-- Settles O48. -/
theorem answersToTraffic : Obligations.AnswersToTraffic := by
  refine ⟨fun s x rest p okay data hx hk => ?_, fun s x rest e es hx hk => ?_⟩
  · intro u
    have hport : u.port p = s.port p := s.port_answered rest p
    have hexec : exec (.passThroughAnswer okay data) s = .next (u.answerPass p okay data) := exec_passThroughAnswer hx hk okay data
    refine ⟨fun a n i h => ?_, fun w i h => ?_, fun r i h => ?_⟩
    · rw [hexec, State.answerPass_outstanding (by rw [hport, h]), hport]
      cases okay <;> rfl
    · rw [hexec, State.answerPass_outstanding (by rw [hport, h]), hport]
      rfl
    · rw [hexec, State.answerPass_abandoned (by rw [hport, h]), hport]
  · intro u
    have hexec := exec_gridWriteAnswer hx hk
    have hwaiting : ∀ q c, u.waitingFor q c = s.waitingFor q c := fun q c => by cases q <;> rfl
    refine ⟨fun hd okay => by rw [hexec, if_pos hd], ?_⟩
    intro noWait popped noticed
    have hanswer : x.discard = false → ∀ okay, exec (.gridWriteAnswer okay) s = .next (u.beatAnswered okay).endQueueWaits :=
      fun hd okay => by rw [hexec, if_neg (by simp [hd])]
    refine ⟨fun hd hq ha hs => ?_, fun p r hd hq hst hno hr hl => ?_, fun okay t t1 t2 t3 t4 hd ht h1 h2 h3 h4 => ?_⟩
    · have hends : ∀ okay, (u.beatAnswered okay).endQueueWaits = u.beatAnswered okay := fun okay =>
        endQueueWaits_of_none fun q => by
          rw [State.beatAnswered_waitingFor, State.beatAnswered_waitingFor, hwaiting, hwaiting]
          cases q
          · exact ha
          · exact hs
      have hokay : u.beatAnswered true = popped := State.beatAnswered_okay (s := u) hq
      have herror : u.beatAnswered false = (u.beatFailed e es).raise .memerr := State.beatAnswered_error (s := u) hq
      refine ⟨by rw [hanswer hd, hends, hokay], fun hn => ?_, fun hn ho => ?_⟩
      · rw [hanswer hd, hends, herror, State.raise_of_unnoticed (s := u.beatFailed e es) hn, State.setFlag_beatFailed]
        rfl
      · obtain ⟨habandoned, hgrid⟩ := State.beatFailed_abandonedTo (s := u) (e := e) (es := es) ho hn
        refine ⟨_, (hanswer hd false).trans (by rw [hends, herror]), habandoned, State.flagSet_raise _ _, ?_, ?_, hgrid⟩
        · simp [State.beatFailed]
        · simp [State.beatFailed, popped, State.beatGone, u]
    · have hport : popped.port p = s.port p := by cases p <;> rfl
      have hnone : ∀ c, popped.waitingFor (PortId.other p) c = s.waitingFor (PortId.other p) c := fun c => by cases p <;> rfl
      have hne : PortId.other p ≠ p := by cases p <;> decide
      have hnoPopped : popped.waitingFor (PortId.other p) .room = none ∧ popped.waitingFor (PortId.other p) .hazard = none := by
        rw [hnone, hnone]
        exact hno
      have hend : popped.endQueueWait p =
          if popped.hazard r then popped else popped.setPort p { s.port p with status := .outstanding r false } := by
        rw [← hport]
        exact State.endQueueWait_hazard (s := popped) (by rw [hport, hst]) hr hl
      have hends : popped.endQueueWaits = popped.endQueueWait p := by
        refine State.endQueueWaits_of_other p hnoPopped ?_
        rw [hend]
        split
        · exact hnoPopped
        · rw [State.waitingFor_setPort_ne _ hne, State.waitingFor_setPort_ne _ hne]
          exact hnoPopped
      have hdone : exec (.gridWriteAnswer true) s = .next popped.endQueueWaits := by
        rw [hanswer hd, State.beatAnswered_okay (s := u) hq]
        rfl
      refine ⟨fun hmeets => ?_, fun hmeets => ?_⟩
      · rw [hdone, hends, hend, (popped.hazard_eq_false_iff r).mpr hmeets]
        rfl
      · rw [hdone, hends, hend, (popped.hazard_iff r).mpr hmeets, if_pos rfl]
    · have hfree : exec (.gridWriteAnswer okay) ((s.freePort .a).freePort .s) =
          .next (((u.freePort .a).freePort .s).beatAnswered okay).endQueueWaits := by
        have hx' : ((s.freePort .a).freePort .s).arbiter.inflight = x :: rest := hx
        rw [exec_gridWriteAnswer hx' hk, if_neg (by simp [hd])]
        rfl
      have hnone : ∀ q, (((u.freePort .a).freePort .s).beatAnswered okay).waitingFor q .room = none ∧
          (((u.freePort .a).freePort .s).beatAnswered okay).waitingFor q .hazard = none := fun q => by
        rw [State.beatAnswered_waitingFor, State.beatAnswered_waitingFor]
        cases q <;> exact ⟨rfl, rfl⟩
      rw [hfree, endQueueWaits_of_none hnone, State.freePort, State.beatAnswered_setPort, State.freePort,
        State.beatAnswered_setPort] at ht
      have hback : ((t.setPort .a s.portA).setPort .s s.portS) = u.beatAnswered okay := by
        have ha : (u.beatAnswered okay).portA = s.portA := by simp [u]
        have hs : (u.beatAnswered okay).portS = s.portS := by simp [u]
        rw [← Host.Outcome.next.inj ht, ← ha, ← hs]
        rfl
      rw [hback] at h1
      rw [hanswer hd, ← h4]
      obtain rfl := Host.Outcome.next.inj h1
      obtain rfl := Host.Outcome.next.inj h2
      obtain rfl := Host.Outcome.next.inj h3
      rfl

end Sys2Proof.Machine

/-! PROOFS. An arming request waits for the refusal entry, and is taken within the completion that frees it (R83, R87, R91, R106;
log 9). -/

namespace Sys2Proof.Machine

/-! ## The wait -/

/-- The write of the go word alone. -/
def State.goWrite (s : State) : Write := s.oneBeat 0x241C (fullBeat 1)

theorem State.goWrite_congr {s t : State} (h : t.ctrlBase = s.ctrlBase) : t.goWrite = s.goWrite := by
  rw [State.goWrite, State.goWrite, State.oneBeat, State.oneBeat, State.regionBase, State.regionBase, h]

theorem State.goWrite_offset (s : State) : s.goWrite.addr.toNat - s.regionBase = 0x241C := by
  rw [State.goWrite, oneBeat_addr s 0x241C (fullBeat 1) (by decide)]
  omega

theorem State.goWrite_notDropped (s : State) : s.dropDecision .s (s.goWrite.addr.toNat - s.regionBase) s.goWrite.beats = false := by
  have hbeats : beatsFrom 0x241C s.goWrite.beats = [(0x241C, fullBeat 1)] := rfl
  have hbeat : s.dropsBeat (0x241C, fullBeat 1) = false := dropsBeat_plan s _ (by decide) (by decide)
  rw [s.goWrite_offset, State.dropDecision, hbeats, List.any_cons, hbeat]
  rfl

theorem State.goWrite_arms (s : State) : (beatsFrom (s.goWrite.addr.toNat - s.regionBase) s.goWrite.beats).any armsAt = true := by
  rw [s.goWrite_offset]
  exact (by decide : ([(0x241C, fullBeat 1)] : List (Nat × Beat)).any armsAt = true)

/-- The arming request waits at port S for the refusal entry. -/
def State.armWaits (s : State) : Prop := s.portS.status = .waiting (.write s.goWrite) .refusalEntry

theorem State.armWaits_congr {s t : State} (h : s.armWaits) (hp : t.portS = s.portS) (hc : t.ctrlBase = s.ctrlBase) : t.armWaits := by
  rw [State.armWaits, hp, State.goWrite_congr hc]
  exact h

section
variable {s : State}

/-- The refusal entry is occupied, or refusals are owed: the arming request waits on (R83). -/
theorem State.takeArming_of_held (hw : s.armWaits) (h : s.refusalOccupied = true ∨ s.stroke.owed ≠ []) : s.takeArming = s := by
  have hwait : (s.port .s).status = .waiting (.write s.goWrite) .refusalEntry := hw
  have hover : s.waitOver (.write s.goWrite) .refusalEntry = false := by
    simp only [State.waitOver, Bool.and_eq_false_iff, Bool.not_eq_false', List.isEmpty_eq_false_iff]
    exact h
  rw [State.takeArming, endWait_eq hwait, hover]
  rfl

/-- The refusal entry is free and no refusal is owed: the arming request is taken and forwarded (R83, R174). -/
theorem State.takeArming_of_over (hw : s.armWaits) (hocc : s.refusalOccupied = false) (ho : s.stroke.owed = [])
    (hl : s.stroke.state ≠ .loading) : s.takeArming = (s.freePort .s).stagedGo.armRequest.forward .s (.write s.goWrite) := by
  have hwait : (s.port .s).status = .waiting (.write s.goWrite) .refusalEntry := hw
  have hover : s.waitOver (.write s.goWrite) .refusalEntry = true := by simp [State.waitOver, hocc, ho]
  have hfree : (s.freePort .s).goWrite = s.goWrite := State.goWrite_congr rfl
  have hdrop := (s.freePort .s).goWrite_notDropped
  have hoff := (s.freePort .s).goWrite_offset
  have hocc' : (s.freePort .s).refusalOccupied = false := hocc
  have hbeats : s.goWrite.beats = [fullBeat 1] := rfl
  rw [hfree] at hdrop hoff
  have hin : (s.freePort .s).inRegion s.goWrite.addr.toNat = true := by
    rw [State.inRegion_freePort]
    exact oneBeat_inRegion s _ _ (by decide)
  rw [State.takeArming, endWait_eq hwait, if_pos hover, classify_control hin hl, controlWrite_taken hdrop (by rw [hocc']; simp),
    hoff, hbeats, takeControl_single _ _ _ (by decide), State.controlBeat_go]

/-- The state with the staged plan latched and ARMING begun (R82). -/
def State.armed (s : State) : State := { s with
  recipe := { s.recipe with staging := s.recipe.staging.set 7 1#32 }
  stroke := { s.stroke with state := .arming, latched := s.recipe.staging.set 7 1#32, walk := .check 1 }
  writer := { s.writer with dirty := true } }

/-- The state after the latched plan's request is forwarded. -/
theorem State.armed_forward (s : State) (r : Request) :
    (s.armed.forward .s r).portS.status = .outstanding r false ∧
      (s.armed.forward .s r).stroke =
        { s.stroke with state := .arming, latched := s.recipe.staging.set 7 1#32, walk := .check 1 } ∧
      (s.armed.forward .s r).recipe = { s.recipe with staging := s.recipe.staging.set 7 1#32 } ∧
      (s.armed.forward .s r).writer.queue = s.writer.queue ∧ (s.armed.forward .s r).lines = s.lines :=
  ⟨rfl, rfl, rfl, rfl, rfl⟩

/-- The state after the pending plan's request is forwarded. -/
theorem State.pended_forward (s : State) (r : Request) :
    (s.stagedGo.pended.forward .s r).portS.status = .outstanding r false ∧
      (s.stagedGo.pended.forward .s r).stroke = { s.stroke with pendingPlan := some (s.recipe.staging.set 7 1#32) } ∧
      (s.stagedGo.pended.forward .s r).writer.queue = s.writer.queue ∧ (s.stagedGo.pended.forward .s r).lines = s.lines :=
  ⟨rfl, rfl, rfl, rfl⟩

/-- The arming request that waited, taken in IDLE. -/
theorem State.takeArming_of_idle (hw : s.armWaits) (hocc : s.refusalOccupied = false) (ho : s.stroke.owed = [])
    (hs : s.stroke.state = .idle) : s.takeArming = s.armed.forward .s (.write s.goWrite) := by
  have hbegin : (s.freePort .s).stagedGo.armRequest = (s.freePort .s).armed := by
    rw [State.armRequest, show (s.freePort .s).stagedGo.stroke.state = .idle from hs]
    rfl
  rw [State.takeArming_of_over hw hocc ho (by simp [hs]), hbegin]
  rfl

/-- The arming request that waited, left pending in ARMING (R85). -/
theorem State.takeArming_of_arming (hw : s.armWaits) (hocc : s.refusalOccupied = false) (ho : s.stroke.owed = [])
    (hs : s.stroke.state = .arming) (hp : s.stroke.pendingPlan = none) :
    s.takeArming = s.stagedGo.pended.forward .s (.write s.goWrite) := by
  have hpend : (s.freePort .s).stagedGo.armRequest = (s.freePort .s).stagedGo.pended := by
    have hstate : (s.freePort .s).stagedGo.stroke.state = .arming := hs
    rw [State.armRequest_pend (by rw [hstate]; decide) (by rw [hstate]; decide), State.pendPlan_of_none (s := (s.freePort .s).stagedGo) hp]
  rw [State.takeArming_of_over hw hocc ho (by simp [hs]), hpend]
  rfl

end

/-! ## The completion of the REFUSAL -/

section
variable {s : State} {e : ReportEntry} {es : List ReportEntry} {a : Word} {okay adv : Bool}

theorem Record.isStroke_of_isRefusal {r : Record} (h : r.isRefusal = true) : r.isStroke = false := by
  cases r <;> simp_all [Record.isRefusal, Record.isStroke]

/-- The completion of a REFUSAL in either order of its blocks (R106, log 9). -/
theorem State.completeRecord_of_refusal (hq : s.writer.queue = e :: es) (hr : e.record.isRefusal = true)
    (a : Word) (okay adv : Bool) :
    s.completeRecord a okay adv true = ((s.completed e a okay adv).notice s.lines.flags).takeArming ∧
      s.completeRecord a okay adv false = ((s.freeHead a okay adv).takeArming.completionFlags e.record okay).notice
        ((s.freeHead a okay adv).takeArming.lines.flags &&& ~~~((s.freeHead a okay adv).lines.flags &&& ~~~s.lines.flags)) := by
  have hafter : ∀ t : State, t.afterRecord e.record = t.takeArming := fun t => by
    rw [State.afterRecord, if_pos hr, State.endReporting_of_not_stroke (Record.isStroke_of_isRefusal hr)]
  rw [State.completeRecord, State.completeRecord, hq]
  dsimp only
  rw [hafter, hafter, if_pos rfl, if_neg (by decide)]
  exact ⟨rfl, rfl⟩

theorem State.refusalOccupied_congr {s t : State} (h : t.writer.queue = s.writer.queue) : t.refusalOccupied = s.refusalOccupied := by
  rw [State.refusalOccupied, State.refusalOccupied, State.entries_congr h]

theorem State.refusalOccupied_of_none {s : State} (h : (s.writer.queue.filter fun y => y.record.isRefusal) = []) :
    s.refusalOccupied = false := by
  simp [State.refusalOccupied, State.entries, h]

/-- The refusal entry is free once the head has gone, no refusal being owed. -/
theorem State.freeHead_free (hq : s.writer.queue = e :: es) (hfree : (es.filter fun y => y.record.isRefusal) = [])
    (hp : s.walker.state ≠ .paused) (ho : s.stroke.owed = []) (a : Word) (okay adv : Bool) :
    (s.freeHead a okay adv).refusalOccupied = false ∧ (s.freeHead a okay adv).stroke = s.stroke ∧
      (s.freeHead a okay adv).writer.queue = es := by
  obtain ⟨h1, h2⟩ := State.freeHead_of_none_owed hp ho a okay adv
  have hqueue : (s.freeHead a okay adv).writer.queue = es := by rw [h2, hq]; rfl
  exact ⟨State.refusalOccupied_of_none (by rw [hqueue]; exact hfree), h1, hqueue⟩

theorem State.completed_waits (h : s.armWaits) (e : ReportEntry) (a : Word) (okay adv : Bool) :
    (s.freeHead a okay adv).armWaits ∧ (s.completed e a okay adv).armWaits :=
  ⟨State.armWaits_congr h (by simp) (by simp), State.armWaits_congr h (by simp [State.completed]) (by simp [State.completed])⟩

end

/-- With no flag enabled there is no notice (R138). -/
theorem State.notice_of_disabled {s : State} (h : s.lines.enables = 0#9) (b : BitVec 9) : s.notice b = s := by
  refine State.notice_of_unnoticed fun hn => ?_
  obtain ⟨f, -, -, hen⟩ := (State.rose_iff s b).mp hn.1
  rw [h] at hen
  simp at hen

/-- REFUSAL, clear and enabled, gives a notice as it is set (R138). -/
theorem State.rose_refusal {s : State} {b : BitVec 9} (h : s.flagSet .refusal = true) (hb : b.getLsbD 1 = false)
    (hen : s.lines.enables.getLsbD 1 = true) : s.rose b = true :=
  (State.rose_iff s b).mpr ⟨.refusal, h, hb, hen⟩

/-- An abandoned arming gives its REFUSAL to the free refusal entry (R87). -/
theorem State.abandonArming_records {s : State} (h : s.refusalOccupied = false) :
    s.abandonArming.records = s.records ++ [.refusal (s.refusalOf .abandoned)] := by
  have hidle : ∀ t : State, t.enterIdle.records = t.records := fun t => by simp [State.records]
  rw [State.abandonArming, State.refuseArming, hidle, State.queueRefusal, h, if_neg (by decide), State.records_enqueue]

theorem State.abandonArming_occupied (s : State) : s.abandonArming.refusalOccupied = true := by
  rw [State.abandonArming, State.refuseArming, State.refusalOccupied_congr (s := s.queueRefusal (s.refusalOf .abandoned)) (by simp)]
  exact s.queueRefusal_occupied _

/-! ## The obligation -/

/-- Settles O23. -/
theorem armWaitsForTheRefusalEntry : Obligations.ArmWaitsForTheRefusalEntry := by
  refine ⟨fun s => ⟨fun hs hocc => ?_, fun hw h => ?_, fun hw hocc ho hst => ?_⟩,
    fun s x rest e es okay first hx hk hd hq hr hfree hp => ?_⟩
  · have hin : s.inRegion s.goWrite.addr.toNat = true := oneBeat_inRegion s _ _ (by decide)
    have hwf : (Request.write s.goWrite).wellFormed = true := oneBeat_wellFormed s _ _ (by decide) (by decide)
    exact (exec_controlWrite (c := .arm s.goWrite) rfl hs.1 hwf hin hs.2).trans
      (by rw [State.controlWrite_held s.goWrite_notDropped s.goWrite_arms hocc]; rfl)
  · rw [exec_armWaitEnd, State.takeArming_of_held hw h]
  · rw [exec_armWaitEnd, State.takeArming_of_idle hw hocc ho hst]
    rfl
  · intro w plan hw
    generalize hu : ({ s with arbiter := { s.arbiter with inflight := rest } } : State) = u
    obtain ⟨hwriter, hstroke, hwalker, hlines, hrecipe, -, -, -, hportS, -⟩ := State.answered_congr hu
    have hctrl : u.ctrlBase = s.ctrlBase := by rw [← hu]
    have huw : u.armWaits := State.armWaits_congr (s := s) hw hportS hctrl
    have hexec : ∀ first, exec (.recordWriteComplete okay first) s =
        .next (u.completeRecord x.request.addr okay x.advances first) := fun first => by
      rw [exec_recordWriteComplete hx hk, if_neg (by simp [hd]), hu]
    have huq : u.writer.queue = e :: es := by rw [hwriter, hq]
    have hup : u.walker.state ≠ .paused := by rwa [hwalker]
    obtain ⟨hflags, hafter⟩ := State.completeRecord_of_refusal huq hr x.request.addr okay x.advances
    obtain ⟨hgw, hcw⟩ := State.completed_waits huw e x.request.addr okay x.advances
    have hg : (u.freeHead x.request.addr okay x.advances).recipe = s.recipe := by simp [hrecipe]
    have hgw' : (u.freeHead x.request.addr okay x.advances).goWrite = w := State.goWrite_congr (s := s) (by simp [hctrl])
    have hcw' : (u.completed e x.request.addr okay x.advances).goWrite = w :=
      State.goWrite_congr (s := s) (by simp [State.completed, hctrl])
    have hcqueue : (u.completed e x.request.addr okay x.advances).writer.queue =
        (u.freeHead x.request.addr okay x.advances).writer.queue := State.completionFlags_queue _ _ _
    have hcstroke : (u.completed e x.request.addr okay x.advances).stroke =
        (u.freeHead x.request.addr okay x.advances).stroke := State.completionFlags_stroke _ _ _
    have hcrecipe : (u.completed e x.request.addr okay x.advances).recipe = s.recipe := by simp [State.completed, hrecipe]
    have hflag : ∀ v : State, (v.completionFlags e.record okay).flagSet .refusal = true := fun v =>
      (State.flagSet_completionFlags _ _ _ _).mpr (.inr (.inr (.inl ⟨hr, rfl⟩)))
    refine ⟨fun ho hst hen => ?_, fun r rs ho hst => ?_, fun ho hst hpend hclear hen => ?_⟩
    · obtain ⟨hocc, hgstroke, hgqueue⟩ := State.freeHead_free huq hfree hup (by rw [hstroke, ho]) x.request.addr okay x.advances
      rw [hgstroke, hstroke] at hcstroke
      rw [hstroke] at hgstroke
      rw [hgqueue] at hcqueue
      cases first with
      | true =>
        have hquiet : (u.completed e x.request.addr okay x.advances).notice u.lines.flags = u.completed e x.request.addr okay x.advances :=
          State.notice_of_not_arming (by rw [hcstroke, hst]; decide) _
        have hdone := State.takeArming_of_idle hcw (State.refusalOccupied_of_none (by rw [hcqueue]; exact hfree))
          (by rw [hcstroke, ho]) (by rw [hcstroke, hst])
        obtain ⟨f1, f2, f3, f4, f5⟩ := (u.completed e x.request.addr okay x.advances).armed_forward (.write w)
        refine ⟨_, (hexec true).trans (by rw [hflags, hquiet, hdone, hcw']), f1, ?_, ?_, f4.trans hcqueue, ?_⟩
        · rw [f2, hcstroke, hcrecipe]
        · rw [f3, hcrecipe]
        · rw [State.flagSet, f5]
          exact hflag _
      | false =>
        have hdone := State.takeArming_of_idle hgw hocc (by rw [hgstroke, ho]) (by rw [hgstroke, hst])
        obtain ⟨f1, f2, f3, f4, f5⟩ := (u.freeHead x.request.addr okay x.advances).armed_forward (.write w)
        rw [hdone, hgw'] at hafter
        generalize (u.freeHead x.request.addr okay x.advances).armed.forward .s (.write w) = v at hafter f1 f2 f3 f4 f5
        rw [State.notice_of_disabled (by simp [f5, hlines, hen, State.freeHead_eq])] at hafter
        refine ⟨_, (hexec false).trans (congrArg _ hafter), by simp [f1], ?_, ?_, ?_, hflag v⟩
        · rw [State.completionFlags_stroke, f2, hgstroke, hg]
        · have hkeep : (v.completionFlags e.record okay).recipe = v.recipe := by simp
          rw [hkeep, f3, hg]
        · rw [State.completionFlags_queue, f4, hgqueue]
    · have hrefill := State.freeHead_of_owed hup (by rw [hstroke, ho]) (by rw [huq]; exact hfree) x.request.addr okay x.advances
      obtain ⟨hgstroke, hgqueue⟩ := hrefill
      have hocc : (u.freeHead x.request.addr okay x.advances).refusalOccupied = true := by
        simp [State.refusalOccupied, State.entries, hgqueue, Record.isRefusal]
      have hdone : (u.completeRecord x.request.addr okay x.advances first) = u.completed e x.request.addr okay x.advances := by
        have hquiet : ∀ b, (u.completed e x.request.addr okay x.advances).notice b = u.completed e x.request.addr okay x.advances :=
          State.notice_of_not_arming (by rw [hcstroke, hgstroke, hstroke, hst]; simp)
        cases first with
        | true => rw [hflags, hquiet, State.takeArming_of_held hcw (.inl ((State.refusalOccupied_congr hcqueue).trans hocc))]
        | false =>
          rw [State.takeArming_of_held hgw (.inl hocc)] at hafter
          rw [hafter]
          exact hquiet _
      refine ⟨_, (hexec first).trans (congrArg _ hdone), by simp [State.completed, hportS], hcrecipe, ?_, ?_⟩
      · rw [hcstroke, hgstroke, hstroke]
      · rw [State.records, hcqueue, hgqueue, huq]
        simp
    · intro gone
      obtain ⟨hocc, hgstroke, hgqueue⟩ := State.freeHead_free huq hfree hup (by rw [hstroke, ho]) x.request.addr okay x.advances
      rw [hgstroke, hstroke] at hcstroke
      rw [hstroke] at hgstroke
      rw [hgqueue] at hcqueue
      have hgone : ∀ v : State, v.stroke.latched = s.stroke.latched → Record.refusal (v.refusalOf .abandoned) = gone := fun v h => by
        rw [State.refusalOf, State.strokeNumber, h]
        rfl
      refine ⟨?_, ?_⟩
      · have hrose : (u.completed e x.request.addr okay x.advances).rose u.lines.flags = true :=
          State.rose_refusal (hflag _) (by rw [hlines]; exact hclear)
            (by rw [← hen]; simp [State.completed, State.freeHead_eq, hlines])
        rw [State.notice_of_noticed ⟨hrose, by rw [hcstroke, hst]⟩] at hflags
        have hcocc := State.refusalOccupied_of_none (s := u.completed e x.request.addr okay x.advances) (by rw [hcqueue]; exact hfree)
        have hcport : (u.completed e x.request.addr okay x.advances).portS = s.portS := by simp [State.completed, hportS]
        generalize u.completed e x.request.addr okay x.advances = v at hflags hcw hcqueue hcstroke hcocc hcport
        have hheld : v.abandonArming.armWaits :=
          State.armWaits_congr hcw (by simp [State.abandonArming]) (by simp [State.abandonArming])
        rw [State.takeArming_of_held hheld (.inl v.abandonArming_occupied)] at hflags
        refine ⟨_, (hexec true).trans (congrArg _ hflags), ?_, ?_, ?_⟩
        · simp [State.abandonArming, hcport]
        · exact ((v.refuseArming_next _).1 (by rw [hcstroke, hpend])).1
        · rw [State.abandonArming_records hcocc, State.records, hcqueue, hgone v (by rw [hcstroke])]
      · have hdone := State.takeArming_of_arming hgw hocc (by rw [hgstroke, ho]) (by rw [hgstroke, hst]) (by rw [hgstroke, hpend])
        have hmono : ∀ f, u.flagSet f = true → (u.freeHead x.request.addr okay x.advances).flagSet f = true := fun f hf =>
          (State.flagSet_freeHead hup _ _ _ f).mpr (.inl hf)
        have henables : (u.freeHead x.request.addr okay x.advances).lines.enables = s.lines.enables := by
          simp [State.freeHead_eq, hlines]
        obtain ⟨f1, f2, f3, f4⟩ := (u.freeHead x.request.addr okay x.advances).pended_forward (.write w)
        rw [hdone, hgw', f4, State.notice_before hmono] at hafter
        generalize (u.freeHead x.request.addr okay x.advances).stagedGo.pended.forward .s (.write w) = v at hafter f1 f2 f3 f4
        have hvstroke : (v.completionFlags e.record okay).stroke =
            { s.stroke with pendingPlan := some plan } := by
          rw [State.completionFlags_stroke, f2, hgstroke, hg]
        have hvqueue : (v.completionFlags e.record okay).writer.queue = es := by rw [State.completionFlags_queue, f3, hgqueue]
        have hvport : (v.completionFlags e.record okay).portS = v.portS := by simp
        have hrose : (v.completionFlags e.record okay).rose u.lines.flags = true :=
          State.rose_refusal (hflag _) (by rw [hlines]; exact hclear) (by rw [← hen, ← henables, ← f4]; simp)
        rw [State.notice_of_noticed ⟨hrose, by rw [hvstroke, hst]⟩] at hafter
        generalize v.completionFlags e.record okay = z at hafter hvstroke hvqueue hvport
        obtain ⟨h1, h2, -⟩ := (z.refuseArming_next (z.refusalOf .abandoned)).2 plan (by rw [hvstroke])
        have hzport : z.abandonArming.portS = z.portS := by simp [State.abandonArming]
        refine ⟨_, (hexec false).trans (congrArg _ hafter), by rw [hzport, hvport, f1], h1, h2, ?_, ?_⟩
        · obtain ⟨-, -, -, -, -, -, hnone⟩ := z.refuseArming_counts (z.refusalOf .abandoned)
          exact hnone
        · rw [State.abandonArming_records (State.refusalOccupied_of_none (by rw [hvqueue]; exact hfree)), State.records, hvqueue,
            hgone z (by rw [hvstroke])]

end Sys2Proof.Machine

/-! PROOFS. Who may clear a flag of the protection word: the RELEASE of one control-region write alone (R157 to R160). -/

namespace Sys2Proof.Machine

/-! ## The idle part with no refusal at hand -/

/-- IDLE, no REFUSAL being queued or owed. -/
def Control.clean (c : Control) : Prop := c.state = .idle ∧ c.records.filter Record.isRefusal = [] ∧ c.owed = []

/-- No move comes to the idle part with no refusal at hand from anywhere else: an arming that ends leaves its REFUSAL (R86, R87). -/
theorem Control.clean_of_move {c d : Control} (m : c.Move d) (h : d.clean) : c.clean := by
  obtain ⟨hs, hr, ho⟩ := h
  cases m with
  | refusal r hl hf => simp [Record.isRefusal] at hr
  | owe r hf => simp at ho
  | handOff r rs hl hf => simp [Record.isRefusal] at hr
  | endArming hs' hr' => exact absurd hr hr'
  | dropPending => exact ⟨hs, hr, ho⟩
  | pend p hl hi => exact absurd hs hi
  | queueGeneral r hs' => exact absurd (hs'.symm.trans hs) (by decide)
  | walkOn hs' => exact absurd (hs'.symm.trans hs) (by decide)
  | pause h hs' => exact absurd (hs'.symm.trans hs) (by decide)
  | leave rs hrs hstroke hrefusal => exact ⟨hs, hrefusal.symm.trans hr, ho⟩
  | tick a b ha hb => exact ⟨hs, hr, ho⟩
  | beginArming | armed | acquire | close | report | walkEnds => cases hs

theorem Control.clean_of_moves {c d : Control} (m : c.Moves d) (h : d.clean) : c.clean := by
  induction m with
  | refl => exact h
  | tail _ hm ih => exact ih (Control.clean_of_move hm h)

/-! ## What comes before a control-region write in an event, and what comes after -/

/-- The protection word is as it was, and the part is no cleaner. -/
def State.Before (s u : State) : Prop := u.protection = s.protection ∧ (u.control.clean → s.control.clean)

/-- No flag of the protection word is lost, and the last command is as it was. -/
def State.After (s t : State) : Prop :=
  (∀ i, s.protection.getLsbD i = true → t.protection.getLsbD i = true) ∧ t.writer.cmdCode = s.writer.cmdCode ∧
    t.writer.cmdResult = s.writer.cmdResult

/-- A freeze flag that RELEASE clears has been lost. -/
def State.thawed (s t : State) : Prop :=
  (s.freezeEnvelopes = true ∧ t.freezeEnvelopes = false) ∨ (s.freezeMap = true ∧ t.freezeMap = false)

/-- FREEZE_PROTECTION and ENFORCE are kept, and only a RELEASE that is done loses another flag. -/
def State.Guarded (s t : State) : Prop :=
  (s.freezeProtection = true → t.freezeProtection = true) ∧ (s.enforce = true → t.enforce = true) ∧
    (s.thawed t → t.writer.cmdCode = 6#32 ∧ t.writer.cmdResult = .done ∧ s.freezeProtection = false ∧ s.control.clean)

theorem State.before_of_moves {s u : State} (hp : u.protection = s.protection) (m : s.Moves u) : s.Before u :=
  ⟨hp, Control.clean_of_moves m⟩

theorem State.Before.refl (s : State) : s.Before s := ⟨rfl, id⟩

theorem State.Before.trans {s u v : State} (a : s.Before u) (b : u.Before v) : s.Before v := ⟨b.1.trans a.1, a.2 ∘ b.2⟩

theorem State.Before.guarded {s u t : State} (a : s.Before u) (b : u.Guarded t) : s.Guarded t := by
  obtain ⟨hp, hclean⟩ := a
  obtain ⟨h1, h2, h3⟩ := b
  unfold State.Guarded State.thawed State.freezeProtection State.enforce State.freezeEnvelopes State.freezeMap at *
  rw [hp] at h1 h2 h3
  exact ⟨h1, h2, fun h => (h3 h).imp_right fun h => h.imp_right fun h => h.imp_right hclean⟩

theorem State.After.refl (s : State) : s.After s := ⟨fun _ => id, rfl, rfl⟩

theorem State.After.trans {s t u : State} (a : s.After t) (b : t.After u) : s.After u :=
  ⟨fun i h => b.1 i (a.1 i h), b.2.1.trans a.2.1, b.2.2.trans a.2.2⟩

theorem State.after_of_eq {s t : State} (hp : t.protection = s.protection) (hc : t.writer.cmdCode = s.writer.cmdCode)
    (hr : t.writer.cmdResult = s.writer.cmdResult) : s.After t := ⟨fun _ h => by rwa [hp], hc, hr⟩

theorem State.not_thawed {s t : State} (h : ∀ i, s.protection.getLsbD i = true → t.protection.getLsbD i = true) : ¬ s.thawed t := by
  rintro (⟨h1, h2⟩ | ⟨h1, h2⟩)
  · exact absurd ((h 0 h1).symm.trans h2) (by decide)
  · exact absurd ((h 1 h1).symm.trans h2) (by decide)

theorem State.guarded_of_grown {s t : State} (h : ∀ i, s.protection.getLsbD i = true → t.protection.getLsbD i = true) : s.Guarded t :=
  ⟨h 2, h 3, fun hlost => absurd hlost (State.not_thawed h)⟩

theorem State.guarded_of_eq {s t : State} (h : t.protection = s.protection) : s.Guarded t :=
  State.guarded_of_grown fun _ hi => by rwa [h]

theorem State.Guarded.andThen {s t u : State} (a : s.Guarded t) (b : t.After u) : s.Guarded u := by
  obtain ⟨h1, h2, h3⟩ := a
  obtain ⟨hgrow, hcode, hresult⟩ := b
  refine ⟨fun h => hgrow 2 (h1 h), fun h => hgrow 3 (h2 h), fun hlost => ?_⟩
  have hbit : ∀ i, u.protection.getLsbD i = false → t.protection.getLsbD i = false := fun i h =>
    Bool.eq_false_iff.mpr fun ht => absurd ((hgrow i ht).symm.trans h) (by decide)
  rw [hcode, hresult]
  exact h3 (hlost.imp (And.imp_right (hbit 0)) (And.imp_right (hbit 1)))

/-! ## The beats of one write -/

theorem State.command_protection (s : State) (b : Beat) : (s.command b).protection = (s.ownerActs b).1.protection := rfl

/-- A command other than a RELEASE that is done leaves the protection word (R98, R127, R128, R160). -/
theorem State.ownerActs_guarded (s : State) (b : Beat) : (s.ownerActs b).1.protection = s.protection ∨
    (commandCode b = 6#32 ∧ (s.ownerActs b).2 = .done ∧ s.freezeProtection = false ∧ s.control.clean ∧
      (s.ownerActs b).1.protection = s.protection &&& 0xC#4) := by
  unfold State.ownerActs
  by_cases hfull : b.full = true
  · rw [if_pos hfull]
    split
    · exact .inl (by simp)
    · exact .inl (by simp)
    · exact .inl (by simp)
    · exact .inl (by simp)
    · exact .inl (by simp)
    · next h6 =>
      have hcode : commandCode b = 6#32 := by
        have hb : b = fullBeat 6#32 := by
          have henable := (beat_full_iff b).mp hfull
          have hdata : b.data = 6#32 := BitVec.eq_of_toNat_eq h6
          cases b
          simp_all [fullBeat]
        rw [hb, commandCode_fullBeat]
      unfold State.release
      split
      · exact .inl rfl
      · split
        · exact .inl rfl
        · split
          · exact .inl rfl
          · next hp hidle hempty =>
            have hempty' : s.writer.queue = [] ∧ s.stroke.owed = [] := by
              constructor <;> by_contra hne <;> exact hempty (by simp [hne])
            refine .inr ⟨hcode, rfl, by simpa using hp, ⟨not_not.mp hidle, ?_, hempty'.2⟩, ?_⟩
            · simp [State.control, State.records, hempty'.1]
            · rw [State.setProtection, State.dirtyIf_eq]
    · exact .inl rfl
  · rw [if_neg hfull]
    exact .inl rfl

theorem State.command_guarded (s : State) (b : Beat) : s.Guarded (s.command b) := by
  obtain h | ⟨hcode, hdone, hfree, hclean, hword⟩ := s.ownerActs_guarded b
  · exact State.guarded_of_eq h
  · have hbit : ∀ i, (s.command b).protection.getLsbD i = (s.protection.getLsbD i && (0xC#4).getLsbD i) := fun i => by
      rw [State.command_protection, hword, BitVec.getLsbD_and]
    refine ⟨fun h => ?_, fun h => ?_, fun _ => ⟨hcode, hdone, hfree, hclean⟩⟩
    · rw [State.freezeProtection, hbit, show s.protection.getLsbD 2 = true from h]
      rfl
    · rw [State.enforce, hbit, show s.protection.getLsbD 3 = true from h]
      rfl

/-- A beat of the plan record touches no flag of the protection word, and makes the part no cleaner. -/
theorem State.before_planBeat (s : State) {off : Nat} (b : Beat) (h : off < 0x2420) : s.Before (s.controlBeat (off, b)) := by
  refine State.before_of_moves ?_ (s.moves_controlBeat _)
  rw [s.controlBeat_plan b h]
  split <;> simp

/-- The protection word only gains flags by a write of its own (R158). -/
theorem State.protect_after (s : State) (b : Beat) : s.After (s.protect b) := by
  have hset : ∀ v, (s.setProtection v).writer.cmdCode = s.writer.cmdCode ∧
      (s.setProtection v).writer.cmdResult = s.writer.cmdResult := fun v => by
    rw [State.setProtection, State.dirtyIf_eq]
    exact ⟨rfl, rfl⟩
  have hforce : ∀ (u : State) v, (u.setForce v).writer.cmdCode = u.writer.cmdCode ∧
      (u.setForce v).writer.cmdResult = u.writer.cmdResult := fun u v => by
    rw [State.setForce, State.dirtyIf_eq]
    exact ⟨rfl, rfl⟩
  obtain ⟨hcode, hresult⟩ := hset (s.protection ||| requested b)
  have hword : (s.protect b).protection = s.protection ||| requested b := by
    unfold State.protect
    dsimp only
    split <;> simp
  refine ⟨fun i hi => ?_, ?_, ?_⟩
  · rw [hword, BitVec.getLsbD_or, hi, Bool.true_or]
  · unfold State.protect
    dsimp only
    split
    · rw [(hforce _ _).1, hcode]
    · exact hcode
  · unfold State.protect
    dsimp only
    split
    · rw [(hforce _ _).2, hresult]
    · exact hresult

/-- The beats after the command word lose no flag of the protection word and are no command. -/
theorem State.after_laterBeat (s : State) {off : Nat} (b : Beat) (h : 0x2420 < off) : s.After (s.controlBeat (off, b)) := by
  have hdirty : ∀ (u : State) c, s.After u → s.After (u.dirtyIf c) := fun u c hu => by
    rw [State.dirtyIf_eq]
    exact hu
  unfold State.controlBeat
  dsimp only
  rw [if_neg (by simp only [Config.commandOffset]; omega), if_neg (by simp only [Config.commandOffset]; omega)]
  split
  · exact hdirty _ _ (.refl s)
  · split
    · exact hdirty _ _ (.refl s)
    · split
      · exact s.protect_after b
      · split
        · unfold State.writeConsumer
          dsimp only
          split
          · exact hdirty _ _ (.refl s)
          · exact State.after_of_eq (by simp) (by simp) (by simp)
        · exact .refl s

theorem State.after_laterBeats (s : State) {off : Nat} (bs : List Beat) (h : 0x2420 < off) : s.After (s.controlBeats (beatsFrom off bs)) := by
  induction bs generalizing s off with
  | nil => exact .refl s
  | cons b bs ih => exact (s.after_laterBeat b h).trans (ih _ (by omega))

/-- One write has at most one command among its beats. -/
theorem State.guarded_controlBeats (s : State) (off : Nat) (bs : List Beat) : s.Guarded (s.controlBeats (beatsFrom off bs)) := by
  induction bs generalizing s off with
  | nil => exact State.guarded_of_eq rfl
  | cons b bs ih =>
    rw [beatsFrom, State.controlBeats]
    obtain h | h | h := lt_trichotomy off 0x2420
    · exact (s.before_planBeat b h).guarded (ih _ _)
    · subst h
      rw [State.controlBeat_command]
      exact (s.command_guarded b).andThen (State.after_laterBeats _ bs (by decide))
    · exact State.guarded_of_grown ((s.after_laterBeat b h).trans (State.after_laterBeats _ bs (by omega))).1

/-! ## One request -/

/-- An operation that is no command: it touches neither the protection word nor the last command. -/
def State.Steady (s t : State) : Prop := s.Before t ∧ s.After t

theorem State.Steady.refl (s : State) : s.Steady s := ⟨.refl s, .refl s⟩

theorem State.Steady.trans {s t u : State} (a : s.Steady t) (b : t.Steady u) : s.Steady u := ⟨a.1.trans b.1, a.2.trans b.2⟩

theorem State.steady_of {s t : State} (m : s.Moves t) (hp : t.protection = s.protection)
    (hc : t.writer.cmdCode = s.writer.cmdCode) (hr : t.writer.cmdResult = s.writer.cmdResult) : s.Steady t :=
  ⟨State.before_of_moves hp m, State.after_of_eq hp hc hr⟩

theorem State.Steady.guarded {s t : State} (h : s.Steady t) : s.Guarded t := State.guarded_of_eq h.1.1

theorem State.steady_setPort (s : State) (p : PortId) (np : NearPort) : s.Steady (s.setPort p np) := by
  cases p <;> exact ⟨⟨rfl, id⟩, fun _ => id, rfl, rfl⟩

theorem State.steady_refuseWrite (s : State) (f : EventFlag) (a : Word) : s.Steady (s.refuseWrite f a) :=
  State.steady_of (s.moves_refuseWrite f a) (by simp) (by simp) (by simp)

theorem State.landed_command (s : State) (p : PortId) (w : Write) : (s.landed p w).writer.cmdCode = s.writer.cmdCode ∧
    (s.landed p w).writer.cmdResult = s.writer.cmdResult := by
  simp [State.landed, State.landRun, State.setSequence, State.startAcquiring]

theorem State.steady_takeLanding {s : State} {p : PortId} {w : Write} (ha : s.landingAccepted p w = true) :
    s.Steady (s.takeLanding p w) := by
  obtain ⟨hcode, hresult⟩ := s.landed_command p w
  refine State.steady_of (State.moves_takeLanding ha) (by simp) ?_ ?_
  · rw [State.takeLanding_eq, State.haltStroke]
    split
    · simp [hcode]
    · split <;> simp [hcode]
  · rw [State.takeLanding_eq, State.haltStroke]
    split
    · simp [hresult]
    · split <;> simp [hresult]

theorem State.steady_landing (s : State) (p : PortId) (w : Write) : s.Steady (s.landing p w) := by
  unfold State.landing
  split
  · next ha =>
    split
    · exact State.steady_takeLanding ha
    · exact s.steady_setPort p _
  · exact (s.steady_setPort p _).trans (State.steady_refuseWrite _ _ _)

theorem State.steady_passThrough (s : State) (p : PortId) (r : Request) : s.Steady (s.passThrough p r) := by
  unfold State.passThrough
  split <;> exact s.steady_setPort p _

/-- A control-region write: no command from port A, and one guarded write from port S (R173, R174, R190). -/
theorem State.controlWrite_guarded (s : State) (p : PortId) (w : Write) : s.Steady (s.controlWrite p w) ∨
    (p = .s ∧ s.Guarded (s.controlWrite p w) ∧ (s.controlWrite p w).waitingFor .s .hazard = none) := by
  unfold State.controlWrite
  dsimp only
  split
  · exact .inl ((s.steady_refuseWrite _ _).trans (State.steady_setPort _ p _))
  · next hdrop =>
    have hp : p = .s := by
      cases p with
      | a => exact absurd (by simp [State.dropDecision]) hdrop
      | s => rfl
    subst hp
    split
    · exact .inl (s.steady_setPort .s _)
    · refine .inr ⟨rfl, State.Guarded.andThen ?_ (State.steady_setPort _ .s _).2, rfl⟩
      unfold State.takeControl
      split
      · exact State.guarded_of_eq (by simp)
      · exact s.guarded_controlBeats _ _

theorem State.classify_guarded (s : State) (p : PortId) (r : Request) : s.Steady (s.classify p r) ∨
    (p = .s ∧ s.Guarded (s.classify p r) ∧ (s.classify p r).waitingFor .s .hazard = none) := by
  unfold State.classify
  split
  · split
    · exact .inl (s.steady_setPort p _)
    · cases r with
      | write w => exact s.controlWrite_guarded p w
      | read a n => exact .inl (s.steady_setPort p _)
  · cases r with
    | write w =>
      dsimp only
      split
      · exact .inl (s.steady_landing p w)
      · exact .inl (s.steady_passThrough p _)
    | read a n => exact .inl (s.steady_passThrough p _)

/-- The oldest request that a port holds off is presented: from port S alone it can be a command. -/
theorem State.releaseHeld_guarded (s : State) (p : PortId) : s.Steady (s.releaseHeld p) ∨ (p = .s ∧ s.Guarded (s.releaseHeld p)) := by
  unfold State.releaseHeld
  split
  · split
    · exact .inl (.refl s)
    · unfold State.handle
      next r rs _ =>
      have hheld := s.steady_setPort p { s.port p with heldOff := rs }
      split
      · obtain h | ⟨hp, h, -⟩ := State.classify_guarded (s.setPort p { s.port p with heldOff := rs }) p r
        · exact .inl (hheld.trans h)
        · exact .inr ⟨hp, hheld.1.guarded h⟩
      · exact .inl (hheld.trans (State.steady_setPort _ p _))
  · exact .inl (.refl s)

theorem State.guarded_presentRequest (s : State) (p : PortId) (r : Request) : s.Guarded (s.presentRequest p r) := by
  have hheld := s.steady_setPort p { s.port p with heldOff := (s.port p).heldOff ++ [r] }
  obtain h | ⟨-, h⟩ := State.releaseHeld_guarded (s.setPort p { s.port p with heldOff := (s.port p).heldOff ++ [r] }) p
  · exact (hheld.trans h).guarded
  · exact hheld.1.guarded h

/-- RESET_N is deasserted: of the two requests that may be presented, port S's alone can be a command (R171, R179). -/
theorem State.guarded_endReset (s : State) (first : PortId) : s.Guarded (s.endReset first) := by
  have hlow : s.Before { s with lines := { s.lines with resetN := false } } := ⟨rfl, id⟩
  refine hlow.guarded ?_
  unfold State.endReset
  generalize ({ s with lines := { s.lines with resetN := false } } : State) = u
  obtain h | ⟨hp, h⟩ := u.releaseHeld_guarded first
  · obtain h' | ⟨-, h'⟩ := (u.releaseHeld first).releaseHeld_guarded (PortId.other first)
    · exact (h.trans h').guarded
    · exact h.1.guarded h'
  · obtain h' | ⟨hp', -⟩ := (u.releaseHeld first).releaseHeld_guarded (PortId.other first)
    · exact h.andThen h'.2
    · subst hp
      cases hp'

/-! ## The ends of a wait -/

theorem State.endWait_guarded (s : State) (p : PortId) (c : WaitCause) : s.Steady (s.endWait p c) ∨
    (p = .s ∧ s.Guarded (s.endWait p c) ∧ (s.endWait p c).waitingFor .s .hazard = none) := by
  unfold State.endWait
  split
  · exact .inl (.refl s)
  · next r _ =>
    split
    · have hfree : s.Steady (s.freePort p) := s.steady_setPort p _
      obtain h | ⟨hp, h, hnone⟩ := (s.freePort p).classify_guarded p r
      · exact .inl (hfree.trans h)
      · exact .inr ⟨hp, hfree.1.guarded h, hnone⟩
    · exact .inl (.refl s)

theorem State.guarded_endWait (s : State) (p : PortId) (c : WaitCause) : s.Guarded (s.endWait p c) := by
  obtain h | ⟨-, h, -⟩ := s.endWait_guarded p c
  · exact h.guarded
  · exact h

/-- The waits on the remap queue that are over end: at most one command among them, port S's. -/
theorem State.guarded_endQueueWaits (s : State) : s.Guarded s.endQueueWaits := by
  have hA : ∀ (u : State) c, u.Steady (u.endWait .a c) := fun u c => (u.endWait_guarded .a c).resolve_right fun h => by cases h.1
  refine ((hA s .room).trans (hA _ .hazard)).1.guarded ?_
  change ((s.endWait .a .room).endWait .a .hazard).Guarded (((s.endWait .a .room).endWait .a .hazard).endQueueWait .s)
  generalize (s.endWait .a .room).endWait .a .hazard = u
  obtain h | ⟨-, h, hnone⟩ := u.endWait_guarded .s .room
  · exact h.1.guarded (State.guarded_endWait _ _ _)
  · rw [State.endQueueWait, endWait_of_none hnone]
    exact h

end Sys2Proof.Machine

/-! PROOFS. The obligation on the protection word and its flags (R157 to R161). -/

namespace Sys2Proof.Machine

/-! ## The completion of a record -/

/-- What an event may do to the flags of the protection word. -/
def State.flagsHeld (s t : State) : Prop :=
  (s.freezeProtection = true → t.freezeProtection = true) ∧ (s.enforce = true → t.enforce = true) ∧
    (s.thawed t → t.writer.cmdCode = 6#32 ∧ t.writer.cmdResult = .done ∧ s.freezeProtection = false ∧ s.stroke.state = .idle)

/-- What came before the command of an event: the protection word is as it was, and the idle part with no refusal at hand was idle. -/
theorem State.Guarded.flagsHeld {s u t : State} (h : u.Guarded t) (hp : u.protection = s.protection)
    (hs : u.control.clean → s.stroke.state = .idle) : s.flagsHeld t := by
  obtain ⟨h1, h2, h3⟩ := h
  unfold State.flagsHeld State.thawed State.freezeProtection State.enforce State.freezeEnvelopes State.freezeMap at *
  rw [hp] at h1 h2 h3
  exact ⟨h1, h2, fun h => (h3 h).imp_right fun h => h.imp_right fun h => h.imp_right hs⟩

theorem State.Guarded.held {s t : State} (h : s.Guarded t) : s.flagsHeld t := h.flagsHeld rfl And.left

theorem State.flagsHeld_of_eq {s t : State} (h : t.protection = s.protection) : s.flagsHeld t := (State.guarded_of_eq h).held

/-- The head's going does not end an arming or a stroke. -/
theorem State.freeHead_idle {s : State} {a : Word} {okay adv : Bool} (h : (s.freeHead a okay adv).stroke.state = .idle) :
    s.stroke.state = .idle := by
  have hslot : ∀ u : State, u.queueSlot.stroke.state = .idle → u.stroke.state = .idle := fun u hu => by
    obtain he | he := u.queueSlot_stroke <;> rw [he] at hu
    · exact hu
    · cases hu
  have hwalk : ∀ u : State, u.resumeWalk.stroke.state = .idle → u.stroke.state = .idle := fun u hu => by
    unfold State.resumeWalk at hu
    split at hu
    · split at hu
      · split at hu
        · simpa using hu
        · split at hu
          · simpa using hu
          · exact hu
      · split at hu
        · exact hslot u hu
        · exact hu
      · exact hu
    · exact hu
  have hgone : (s.headGone a okay adv).resumeWalk.stroke.state = .idle := by
    rw [State.freeHead_eq, State.refillEntries] at h
    simpa [State.handOffOwed_state] using h
  simpa using hwalk _ hgone

/-- The completion of a record: the arming request that its end may take is the one command of the event (R83, R106). -/
theorem State.completeRecord_held (s : State) (a : Word) (okay adv first : Bool) : s.flagsHeld (s.completeRecord a okay adv first) := by
  have hafter : ∀ (u : State) (r : Record), u.Guarded (u.afterRecord r) := fun u r => by
    unfold State.afterRecord
    split
    · next hr =>
      rw [State.endReporting_of_not_stroke (Record.isStroke_of_isRefusal hr)]
      exact State.guarded_endWait _ _ _
    · exact State.guarded_of_eq (by simp)
  have hword : (s.freeHead a okay adv).protection = s.protection := by simp
  have hidle : (s.freeHead a okay adv).control.clean → s.stroke.state = .idle := fun h => State.freeHead_idle h.1
  unfold State.completeRecord
  split
  · exact State.flagsHeld_of_eq rfl
  · next e _ _ =>
    dsimp only
    split
    · have hflags : (s.freeHead a okay adv).Before (((s.freeHead a okay adv).completionFlags e.record okay).notice s.lines.flags) :=
        State.before_of_moves (by simp) (State.moves_completionFlags _ _ _ _)
      exact (hflags.guarded (hafter _ _)).flagsHeld hword hidle
    · exact ((hafter (s.freeHead a okay adv) e.record).andThen (State.after_of_eq (by simp) (by simp) (by simp))).flagsHeld hword hidle

/-! ## Every event -/

theorem State.flagsHeld_congr {s u t : State} (h : u.flagsHeld t) (hp : u.protection = s.protection)
    (hs : u.stroke.state = s.stroke.state) : s.flagsHeld t := by
  unfold State.flagsHeld State.thawed State.freezeProtection State.enforce State.freezeEnvelopes State.freezeMap at *
  rwa [hp, hs] at h

/-- Every event but power-on reset keeps FREEZE_PROTECTION and ENFORCE, and only a RELEASE clears another flag (R157, R160). -/
theorem exec_flagsHeld {c : Instr} {s t : State} (he : exec c s = .next t) (hpower : ∀ b k, c ≠ .powerOnReset b k) : s.flagsHeld t := by
  cases hr : requestOf c with
  | some pr =>
    obtain rfl := Host.Outcome.next.inj ((exec_requestOf s hr).symm.trans he)
    exact (s.guarded_presentRequest _ _).held
  | none =>
    cases c
    case powerOnReset b k => exact absurd rfl (hpower b k)
    case gridWriteAnswer okay =>
      obtain rfl := Host.Outcome.next.inj he
      split
      · exact State.flagsHeld_of_eq rfl
      · split
        · exact State.flagsHeld_of_eq (by simp)
        · have hpop : s.Before s.popAnswered := ⟨rfl, id⟩
          have hbeat : s.popAnswered.Before (s.popAnswered.beatAnswered okay) :=
            State.before_of_moves (by simp) (State.moves_beatAnswered _ _)
          exact ((hpop.trans hbeat).guarded (State.guarded_endQueueWaits _)).held
    case recordToControlRegion first =>
      obtain rfl := Host.Outcome.next.inj he
      split
      · exact State.flagsHeld_congr (State.completeRecord_held s.headIssued _ _ _ _) (by simp) (by simp)
      · exact State.flagsHeld_of_eq rfl
    case recordWriteComplete okay first =>
      obtain rfl := Host.Outcome.next.inj he
      split
      · exact State.flagsHeld_of_eq rfl
      · split
        · exact State.flagsHeld_of_eq (by simp)
        · exact State.flagsHeld_congr (State.completeRecord_held s.popAnswered _ _ _ _) (by simp) (by simp)
    case resetNDeasserted first =>
      obtain rfl := Host.Outcome.next.inj he
      split
      · exact (s.guarded_endReset first).held
      · exact State.flagsHeld_of_eq rfl
    case waitingLandingWriteTaken | hazardWaitEnd | loadingWaitEnd | armWaitEnd =>
      obtain rfl := Host.Outcome.next.inj he
      exact (s.guarded_endWait _ _).held
    case warmReset | pressAbort | armingCheck | armingWalkEnd | armExpiry | stallExpiry | closingWalkStep | memoryGrant =>
      obtain rfl := Host.Outcome.next.inj he
      refine State.flagsHeld_of_eq ?_
      (try split) <;> simp [State.warmReset]
    case statusWriteComplete | passThroughAnswer | loadReadAnswer =>
      obtain rfl := Host.Outcome.next.inj he
      refine State.flagsHeld_of_eq ?_
      split
      · rfl
      · split <;> simp
    all_goals exact absurd hr (by simp [requestOf])

/-! ## The protection word -/

theorem State.requested_getLsbD (b : Beat) (h : b.enable.getLsbD 0 = true) : requested b = b.data.extractLsb' 0 4 := if_pos h

/-- A write of the protection word that clears no flag (R158, R159). -/
theorem State.protect_eq (s : State) (b : Beat) : s.protect b = { s with
    protection := s.protection ||| requested b
    lines := { s.lines with force :=
      if s.enforce = false ∧ (requested b).getLsbD 3 = true ∧ s.lines.force = ForceState.forcedOff then ForceState.none
        else s.lines.force }
    writer := { s.writer with dirty := s.writer.dirty || (s.protection ||| requested b) != s.protection } } := by
  have henforce : (s.setProtection (s.protection ||| requested b)).enforce = (s.enforce || (requested b).getLsbD 3) := by
    rw [State.setProtection, State.dirtyIf_eq]
    exact BitVec.getLsbD_or
  have hforce : (s.setProtection (s.protection ||| requested b)).lines.force = s.lines.force := by
    rw [State.setProtection, State.dirtyIf_eq]
  have hchanged : s.enforce = false → (requested b).getLsbD 3 = true → ((s.protection ||| requested b) != s.protection) = true :=
    fun h1 h2 => bne_iff_ne.mpr fun he => by
      have hbit : (s.protection ||| requested b).getLsbD 3 = true := by rw [BitVec.getLsbD_or, h2, Bool.or_true]
      rw [he] at hbit
      exact absurd (hbit.symm.trans h1) (by decide)
  have hcond : (s.enforce = false ∧ (s.setProtection (s.protection ||| requested b)).enforce = true ∧
      (s.setProtection (s.protection ||| requested b)).lines.force = .forcedOff) ↔
      (s.enforce = false ∧ (requested b).getLsbD 3 = true ∧ s.lines.force = ForceState.forcedOff) := by
    rw [henforce, hforce]
    exact and_congr_right fun h => by rw [h, Bool.false_or]
  unfold State.protect
  dsimp only
  by_cases h : s.enforce = false ∧ (requested b).getLsbD 3 = true ∧ s.lines.force = ForceState.forcedOff
  · obtain ⟨h1, h2, h3⟩ := h
    rw [if_pos (hcond.mpr ⟨h1, h2, h3⟩), if_pos ⟨h1, h2, h3⟩, State.setForce, State.setProtection, State.dirtyIf_eq, State.dirtyIf_eq,
      bne_comm, hchanged h1 h2]
    simp
  · rw [if_neg (mt hcond.mp h), if_neg h, State.setProtection, State.dirtyIf_eq, bne_comm]

/-- Settles O19. -/
theorem protectionWordAndFlags : Obligations.ProtectionWordAndFlags := by
  refine ⟨fun s b hs => ?_, fun c s t he hpower => exec_flagsHeld he hpower⟩
  intro w asks
  have hdrops : s.dropsBeat (0x242C, b) = true ↔ b.enable.getLsbD 0 = true ∧ s.protection &&& ~~~asks ≠ 0#4 := by
    have hasks : b.enable.getLsbD 0 = true → asks = b.data.extractLsb' 0 4 := State.requested_getLsbD b
    rw [State.dropsBeat_iff, State.frozenAt_iff]
    constructor
    · rintro (h | h | ⟨-, h1, h2⟩)
      · omega
      · omega
      · exact ⟨h1, by rwa [hasks h1]⟩
    · rintro ⟨h1, h2⟩
      exact .inr (.inr ⟨rfl, h1, by rwa [← hasks h1]⟩)
  refine ⟨fun h => ?_, fun h => ?_⟩
  · have haddr : w.addr.toNat - s.regionBase = 0x242C := by
      rw [oneBeat_addr s 0x242C b (by decide)]
      omega
    have hdrop : s.dropDecision .s (w.addr.toNat - s.regionBase) w.beats = true := by
      rw [State.dropDecision_iff, haddr]
      exact .inr ⟨0, b, rfl, hdrops.mpr h⟩
    refine ⟨_, (exec_controlWrite (c := .protectionWordWrite w) rfl hs.1 (oneBeat_wellFormed s _ b (by decide) (by decide))
      (oneBeat_inRegion s _ b (by decide)) hs.2).trans (by rw [State.controlWrite_dropped hdrop]), rfl, rfl, by simp, ?_⟩
    exact State.flagSet_raise (s.captureRefused w.addr) .protect
  · have hword : s.controlBeat (0x242C, b) = s.protect b := by
      simp [State.controlBeat, Config.commandOffset, Config.acknowledgeOffset, Config.enableOffset, Config.protectionOffset]
    rw [exec_oneBeat (c := .protectionWordWrite w) rfl hs (by decide) (by decide) (Bool.eq_false_iff.mpr (mt hdrops.mp h))
      (by simp [armsAt, Config.goOffset]), takeControl_single _ _ _ (by decide), hword, s.protect_eq b]
    rfl

end Sys2Proof.Machine

/-! PROOFS. What the stroke controller, the checker and the command area do is the same whatever a near port holds: their operations
commute with a change of a port. -/

namespace Sys2Proof.Machine

section
variable (s : State) (p : PortId) (np : NearPort)

theorem State.dirtyIf_setPort (b : Bool) : (s.setPort p np).dirtyIf b = (s.dirtyIf b).setPort p np := by
  rw [State.dirtyIf_eq, State.dirtyIf_eq]
  cases p <;> rfl

/-! ## Refused writes -/

theorem State.captureRefused_setPort (a : Word) : (s.setPort p np).captureRefused a = (s.captureRefused a).setPort p np := by
  rw [State.captureRefused_eq, State.captureRefused_eq]
  cases p <;> rfl

theorem State.refuseWrite_setPort (f : EventFlag) (a : Word) :
    (s.setPort p np).refuseWrite f a = (s.refuseWrite f a).setPort p np := by
  rw [State.refuseWrite, State.refuseWrite, State.captureRefused_setPort, State.raise_setPort]

/-! ## The end of a stroke -/

theorem State.setHaltLatch_setPort (v : Bool) : (s.setPort p np).setHaltLatch v = (s.setHaltLatch v).setPort p np := by
  rw [State.setHaltLatch, State.setHaltLatch, State.dirtyIf_eq, State.dirtyIf_eq]
  cases p <;> rfl

theorem State.setOutcome_setPort (o : StrokeOutcome) : (s.setPort p np).setOutcome o = (s.setOutcome o).setPort p np := by
  cases p <;> rfl

theorem State.queueEmptySlots_setPort (ns : List Nat) :
    (s.setPort p np).queueEmptySlots ns = (s.queueEmptySlots ns).setPort p np := by
  induction ns generalizing s with
  | nil => rfl
  | cons n ns ih =>
    have hcompose : (s.setPort p np).composeEmptySlot n = s.composeEmptySlot n := by cases p <;> rfl
    obtain ⟨-, hstroke, -⟩ := s.setPort_fields p np
    rw [State.queueEmptySlots, State.queueEmptySlots, hstroke, hcompose]
    split
    · rw [State.enqueue_setPort]
      exact ih _
    · exact ih _

theorem State.startWalk_setPort (o : StrokeOutcome) : (s.setPort p np).startWalk o = (s.startWalk o).setPort p np := by
  obtain ⟨-, hstroke, hwalker, -, hrecipe, -⟩ := s.setPort_fields p np
  unfold State.startWalk
  rw [hstroke, hwalker, hrecipe]
  split
  · rw [← State.enter_setPort]
    cases p <;> rfl
  · exact s.queueStrokeVerdict_setPort p np o

theorem State.cutClosing_setPort (o : StrokeOutcome) : (s.setPort p np).cutClosing o = (s.cutClosing o).setPort p np := by
  rw [State.cutClosing, State.cutClosing, State.setOutcome_setPort, State.queueStrokeVerdict_setPort]

/-! ## The plan and the commands -/

theorem State.discardPending_setPort : (s.setPort p np).discardPending = s.discardPending.setPort p np := by
  obtain ⟨-, hstroke, -⟩ := s.setPort_fields p np
  unfold State.discardPending
  rw [hstroke]
  split
  · rfl
  · rw [← State.queueRefusal_setPort]
    cases p <;> rfl

theorem State.discardPins_setPort : (s.setPort p np).discardPins = s.discardPins.setPort p np := by
  obtain ⟨hwriter, -, hwalker, -⟩ := s.setPort_fields p np
  unfold State.discardPins
  dsimp only
  rw [hwriter, hwalker]
  split
  all_goals
    split
    · rw [← State.takeUpHead_setPort]
      cases p <;> rfl
    · cases p <;> rfl

theorem State.stagePlan_setPort (off : Nat) (b : Beat) : (s.setPort p np).stagePlan off b = (s.stagePlan off b).setPort p np := by
  cases p <;> rfl

theorem State.pendPlan_setPort : (s.setPort p np).pendPlan = s.pendPlan.setPort p np := by
  have hpended : (s.setPort p np).pended = s.pended.setPort p np := by cases p <;> rfl
  obtain ⟨-, hstroke, -, hlines, -⟩ := s.setPort_fields p np
  cases hpend : s.stroke.pendingPlan with
  | none => rw [State.pendPlan_of_none hpend, State.pendPlan_of_none (by rw [hstroke, hpend]), hpended]
  | some old =>
    rw [State.pendPlan_of_some hpend, State.pendPlan_of_some (by rw [hstroke, hpend]), hpended, hlines, State.queueRefusal_setPort,
      State.notice_setPort]

theorem State.armRequest_setPort : (s.setPort p np).armRequest = s.armRequest.setPort p np := by
  obtain ⟨-, hstroke, -⟩ := s.setPort_fields p np
  unfold State.armRequest
  rw [hstroke]
  split
  · rfl
  · cases p <;> rfl
  all_goals exact s.pendPlan_setPort p np

theorem State.setForce_setPort (v : ForceState) : (s.setPort p np).setForce v = (s.setForce v).setPort p np := by
  rw [State.setForce, State.setForce, State.dirtyIf_eq, State.dirtyIf_eq]
  cases p <;> rfl

theorem State.setProtection_setPort (v : BitVec 4) : (s.setPort p np).setProtection v = (s.setProtection v).setPort p np := by
  rw [State.setProtection, State.setProtection, State.dirtyIf_eq, State.dirtyIf_eq]
  cases p <;> rfl

/-- RELEASE, by its result and its state. -/
theorem State.release_setPort : (s.setPort p np).release.1 = s.release.1.setPort p np ∧ (s.setPort p np).release.2 = s.release.2 := by
  have hprotection : (s.setPort p np).protection = s.protection := by simp
  have hfreeze : (s.setPort p np).freezeProtection = s.freezeProtection := by rw [State.freezeProtection, hprotection]; rfl
  obtain ⟨hwriter, hstroke, -⟩ := s.setPort_fields p np
  unfold State.release
  rw [hfreeze, hstroke, hwriter, hprotection, State.setProtection_setPort]
  split
  · exact ⟨rfl, rfl⟩
  · split
    · exact ⟨rfl, rfl⟩
    · split <;> exact ⟨rfl, rfl⟩

theorem State.protect_setPort (b : Beat) : (s.setPort p np).protect b = (s.protect b).setPort p np := by
  rw [State.protect_eq, State.protect_eq]
  cases p <;> rfl

theorem State.acknowledge_setPort (b : Beat) : (s.setPort p np).acknowledge b = (s.acknowledge b).setPort p np := by
  unfold State.acknowledge
  dsimp only
  rw [← State.dirtyIf_setPort]
  cases p <;> rfl

theorem State.enableEvents_setPort (b : Beat) : (s.setPort p np).enableEvents b = (s.enableEvents b).setPort p np := by
  unfold State.enableEvents
  dsimp only
  rw [← State.dirtyIf_setPort]
  cases p <;> rfl

theorem State.writeConsumer_setPort (b : Beat) : (s.setPort p np).writeConsumer b = (s.writeConsumer b).setPort p np := by
  have hrequest : (s.setPort p np).requestedConsumer b = s.requestedConsumer b := by cases p <;> rfl
  have hspan : ∀ v, (s.setPort p np).inSpan v = s.inSpan v := fun v => by cases p <;> rfl
  unfold State.writeConsumer
  dsimp only
  rw [hrequest, hspan]
  split
  · rw [← State.dirtyIf_setPort]
    cases p <;> rfl
  · exact s.raise_setPort p np _

/-! ## Recipe writes and landing writes -/

theorem State.recipeStored_setPort (off : Nat) (bs : List Beat) :
    (s.setPort p np).recipeStored off bs = (s.recipeStored off bs).setPort p np := by
  have hreset : ∀ u : State, (u.setPort p np).resetRing = u.resetRing.setPort p np := fun u => by cases p <;> rfl
  obtain ⟨-, -, -, -, hrecipe, -⟩ := s.setPort_fields p np
  unfold State.recipeStored
  dsimp only
  rw [hrecipe]
  split
  · rw [← hreset, ← State.dirtyIf_setPort]
    cases p <;> rfl
  · rw [← State.dirtyIf_setPort]
    cases p <;> rfl

theorem State.putPin_setPort (c : Nat) (x : PinContext) : (s.setPort p np).putPin c x = (s.putPin c x).setPort p np := by
  have hpin : (s.setPort p np).pin c = s.pin c := by cases p <;> rfl
  have hslot : ∀ n, (s.setPort p np).slotFailing n = s.slotFailing n := fun n => by cases p <;> rfl
  obtain ⟨-, hstroke, -, -, hrecipe, hchecker, -⟩ := s.setPort_fields p np
  unfold State.putPin
  dsimp only
  rw [hpin, hstroke, hrecipe, hchecker]
  simp only [hslot]
  split
  · split <;> cases p <;> rfl
  · cases p <;> rfl

/-- The judgement of a beat: its tag, its halting notice and its state. -/
theorem State.presentBeat_setPort (c step : Nat) (w : Word) (h : Bool) : (s.setPort p np).presentBeat c step w h =
    ((s.presentBeat c step w h).1, (s.presentBeat c step w h).2.1, (s.presentBeat c step w h).2.2.setPort p np) := by
  have hpin : (s.setPort p np).pin c = s.pin c := by cases p <;> rfl
  have hscope : (s.setPort p np).haltingScope = s.haltingScope := by cases p <;> rfl
  have hfault : ∀ j, (s.setPort p np).faultCondition c j = s.faultCondition c j := fun j => by cases p <;> rfl
  have hthreshold : ∀ (u : State) n, (u.setPort p np).thresholdCondition n = u.thresholdCondition n := fun u n => by cases p <;> rfl
  obtain ⟨-, -, -, -, hrecipe, hchecker, -⟩ := s.setPort_fields p np
  unfold State.presentBeat
  rw [hpin, hrecipe]
  split
  · rfl
  · dsimp only
    rw [hscope, hfault, State.putPin_setPort, hthreshold, hchecker]

theorem State.landBeat_setPort (o : Nat) (b : Beat) (h : Bool) :
    (s.setPort p np).landBeat o b h = ((s.landBeat o b h).1.setPort p np, (s.landBeat o b h).2) := by
  have hcells : (s.setPort p np).cells = s.cells := by cases p <;> rfl
  have hsteps : (s.setPort p np).steps = s.steps := by cases p <;> rfl
  obtain ⟨-, hstroke, -, -, hrecipe, -⟩ := s.setPort_fields p np
  unfold State.landBeat
  dsimp only
  rw [hcells, hsteps, hstroke, hrecipe, State.presentBeat_setPort]
  cases p <;> rfl

theorem State.landBeats_setPort (o : Nat) (h : Bool) (bs : List Beat) :
    (s.setPort p np).landBeats o h bs = ((s.landBeats o h bs).1.setPort p np, (s.landBeats o h bs).2) := by
  induction bs generalizing s o h with
  | nil => rfl
  | cons b bs ih =>
    rw [State.landBeats, State.landBeats, State.landBeat_setPort, ih]

theorem State.startAcquiring_setPort : (s.setPort p np).startAcquiring = s.startAcquiring.setPort p np := by
  unfold State.startAcquiring
  dsimp only
  rw [← State.enter_setPort]
  cases p <;> rfl

theorem State.landRun_setPort (w : Write) : (s.setPort p np).landRun w = ((s.landRun w).1.setPort p np, (s.landRun w).2) := by
  have hoffsets : (s.setPort p np).offsetsFor w.beats.length = s.offsetsFor w.beats.length := by cases p <;> rfl
  obtain ⟨-, -, -, -, -, -, -, hremap⟩ := s.setPort_fields p np
  unfold State.landRun
  rw [hoffsets, hremap, State.startAcquiring_setPort, State.landBeats_setPort]

end

end Sys2Proof.Machine

/-! PROOFS. The requests that a port holds off wait outside everything the part does with the request it has taken (R171, R179). -/

namespace Sys2Proof.Machine

/-- Port p holds these requests off. -/
def State.holding (s : State) (p : PortId) (l : List Request) : State := s.setPort p { s.port p with heldOff := l }

section
variable (s : State) (p q : PortId) (l : List Request)

theorem State.setPort_holding (np : NearPort) :
    (s.setPort q np).holding q l = s.setPort q { np with heldOff := l } := by cases q <;> rfl

/-- What a port takes or answers leaves the requests held off, at this port and at the other. -/
theorem State.answer_holding (x : Answer) : (s.holding q l).answer p x = (s.answer p x).holding q l := by
  cases p <;> cases q <;> rfl

theorem State.waitAt_holding (r : Request) (c : WaitCause) : (s.holding q l).waitAt p r c = (s.waitAt p r c).holding q l := by
  cases p <;> cases q <;> rfl

theorem State.forward_holding (r : Request) : (s.holding q l).forward p r = (s.forward p r).holding q l := by
  cases p <;> cases q <;> rfl

theorem State.port_holding_status : ((s.holding q l).port p).status = (s.port p).status := by
  cases p <;> cases q <;> rfl

/-- An operation that commutes with every change of a port and leaves the ports commutes with a change of what one holds off. -/
theorem State.holding_of_setPort {op : State → State} (h : ∀ u np, op (State.setPort u q np) = (op u).setPort q np)
    (hp : (op s).port q = s.port q) : op (s.holding q l) = (op s).holding q l := by
  rw [State.holding, h, State.holding, hp]

theorem State.refuseWrite_holding (f : EventFlag) (a : Word) : (s.holding q l).refuseWrite f a = (s.refuseWrite f a).holding q l :=
  State.holding_of_setPort s q l (op := fun u => u.refuseWrite f a) (fun u np => u.refuseWrite_setPort q np f a)
    (State.port_congr (by simp) (by simp) q)

theorem State.dropWaiting_holding : (s.holding q l).dropWaiting p = (s.dropWaiting p).holding q l := by
  unfold State.dropWaiting
  rw [State.port_holding_status]
  split
  · rw [State.answer_holding, State.refuseWrite_holding]
  all_goals rfl

theorem State.endStroke_holding (o : StrokeOutcome) : (s.holding q l).endStroke o = (s.endStroke o).holding q l := by
  have hout : (s.holding q l).setOutcome o = (s.setOutcome o).holding q l := by cases q <;> rfl
  unfold State.endStroke
  dsimp only
  rw [hout]
  generalize s.setOutcome o = u
  have hstroke : (u.holding q l).stroke = u.stroke := (u.setPort_fields q _).2.1
  have hverdict : (u.holding q l).queueStrokeVerdict o = (u.queueStrokeVerdict o).holding q l :=
    State.holding_of_setPort u q l (op := fun u => u.queueStrokeVerdict o) (fun u np => u.queueStrokeVerdict_setPort q np o)
      (State.port_congr (by simp) (by simp) q)
  have hempty : ((u.holding q l).queueEmptySlots [0, 1, 2, 3]).queueStrokeVerdict o =
      ((u.queueEmptySlots [0, 1, 2, 3]).queueStrokeVerdict o).holding q l :=
    State.holding_of_setPort u q l (op := fun u => (u.queueEmptySlots [0, 1, 2, 3]).queueStrokeVerdict o)
      (fun u np => by rw [State.queueEmptySlots_setPort, State.queueStrokeVerdict_setPort])
      (State.port_congr (by simp) (by simp) q)
  have hwalk : (u.holding q l).startWalk o = (u.startWalk o).holding q l :=
    State.holding_of_setPort u q l (op := fun u => u.startWalk o) (fun u np => u.startWalk_setPort q np o)
      (State.port_congr (by simp) (by simp) q)
  rw [hstroke]
  split
  · rw [hverdict, State.dropWaiting_holding, State.dropWaiting_holding]
  · split
    · rw [hempty, State.dropWaiting_holding, State.dropWaiting_holding]
    · rw [hwalk, State.dropWaiting_holding, State.dropWaiting_holding]

theorem State.cutClosing_holding (o : StrokeOutcome) : (s.holding q l).cutClosing o = (s.cutClosing o).holding q l :=
  State.holding_of_setPort s q l (op := fun u => u.cutClosing o) (fun u np => u.cutClosing_setPort q np o)
    (State.port_congr (by simp) (by simp) q)

theorem State.hardChange_holding : (s.holding q l).hardChange = s.hardChange.holding q l := by
  have hstroke : (s.holding q l).stroke = s.stroke := (s.setPort_fields q _).2.1
  unfold State.hardChange
  rw [hstroke]
  split
  · rfl
  · rfl
  · exact State.holding_of_setPort s q l (op := State.abandonArming) (fun u np => u.abandonArming_setPort q np)
      (State.port_congr (by simp) (by simp) q)
  · exact s.endStroke_holding q l _
  · exact s.endStroke_holding q l _
  · exact s.cutClosing_holding q l _
  · rfl

/-! ## The commands -/

theorem State.discardPending_holding : (s.holding q l).discardPending = s.discardPending.holding q l :=
  State.holding_of_setPort s q l (op := State.discardPending) (fun u np => u.discardPending_setPort q np)
    (State.port_congr (by simp) (by simp) q)

theorem State.abort_holding : (s.holding q l).abort.1 = s.abort.1.holding q l ∧ (s.holding q l).abort.2 = s.abort.2 := by
  have hstroke : (s.holding q l).stroke = s.stroke := (s.setPort_fields q _).2.1
  unfold State.abort
  rw [hstroke]
  split
  · exact ⟨rfl, rfl⟩
  · exact ⟨rfl, rfl⟩
  · refine ⟨State.holding_of_setPort s q l
      (op := fun u => ((u.queueRefusal (u.refusalOf .abandoned)).discardPending).enter .idle) (fun u np => ?_)
      (State.port_congr (by simp) (by simp) q), rfl⟩
    have hwhy : (u.setPort q np).refusalOf .abandoned = u.refusalOf .abandoned := by cases q <;> rfl
    rw [hwhy, State.queueRefusal_setPort, State.discardPending_setPort, State.enter_setPort]
  · exact ⟨by rw [State.endStroke_holding, State.discardPending_holding], rfl⟩
  · exact ⟨by rw [State.endStroke_holding, State.discardPending_holding], rfl⟩
  · exact ⟨by rw [State.cutClosing_holding, State.discardPending_holding], rfl⟩
  · refine ⟨State.holding_of_setPort s q l (op := fun u => u.discardPins.discardPending) (fun u np => ?_)
      (State.port_congr (by simp) (by simp) q), rfl⟩
    rw [State.discardPins_setPort, State.discardPending_setPort]

theorem State.ownerActs_holding (b : Beat) :
    ((s.holding q l).ownerActs b).1 = (s.ownerActs b).1.holding q l ∧ ((s.holding q l).ownerActs b).2 = (s.ownerActs b).2 := by
  have hforce : ∀ v, (s.holding q l).setForce v = (s.setForce v).holding q l := fun v =>
    State.holding_of_setPort s q l (op := fun u => u.setForce v) (fun u np => u.setForce_setPort q np v)
      (State.port_congr (by simp) (by simp) q)
  have hlatch : ∀ v, (s.holding q l).setHaltLatch v = (s.setHaltLatch v).holding q l := fun v =>
    State.holding_of_setPort s q l (op := fun u => u.setHaltLatch v) (fun u np => u.setHaltLatch_setPort q np v)
      (State.port_congr (by simp) (by simp) q)
  have hstroke : (s.holding q l).stroke = s.stroke := (s.setPort_fields q _).2.1
  have henforce : (s.holding q l).enforce = s.enforce := by cases q <;> rfl
  unfold State.ownerActs
  split
  · split
    · exact s.abort_holding q l
    · unfold State.haltClear
      rw [hstroke]
      split
      · exact ⟨hlatch _, rfl⟩
      · exact ⟨rfl, rfl⟩
    · exact ⟨hforce _, rfl⟩
    · unfold State.forceHaltOff
      rw [henforce]
      split
      · exact ⟨rfl, rfl⟩
      · exact ⟨hforce _, rfl⟩
    · exact ⟨hforce _, rfl⟩
    · exact ⟨State.holding_of_setPort s q l (op := fun u => u.release.1) (fun u np => (u.release_setPort q np).1)
        (State.port_congr (by simp) (by simp) q), (s.release_setPort q _).2⟩
    · exact ⟨rfl, rfl⟩
  · exact ⟨rfl, rfl⟩

theorem State.command_holding (b : Beat) : (s.holding q l).command b = (s.command b).holding q l := by
  obtain ⟨h1, h2⟩ := s.ownerActs_holding q l b
  rw [State.command_eq_recorded, State.command_eq_recorded, h1, h2]
  cases q <;> rfl

theorem State.controlBeat_holding (ob : Nat × Beat) : (s.holding q l).controlBeat ob = (s.controlBeat ob).holding q l := by
  have hstage : (s.holding q l).stagePlan ob.1 ob.2 = (s.stagePlan ob.1 ob.2).holding q l := by cases q <;> rfl
  unfold State.controlBeat
  dsimp only
  rw [hstage]
  split
  · split
    · exact State.holding_of_setPort _ q l (op := State.armRequest) (fun u np => u.armRequest_setPort q np)
        (State.port_congr (by simp) (by simp) q)
    · rfl
  · split
    · exact s.command_holding q l ob.2
    · split
      · exact State.holding_of_setPort s q l (op := fun u => u.acknowledge ob.2) (fun u np => u.acknowledge_setPort q np ob.2)
          (State.port_congr (by simp) (by simp) q)
      · split
        · exact State.holding_of_setPort s q l (op := fun u => u.enableEvents ob.2) (fun u np => u.enableEvents_setPort q np ob.2)
            (State.port_congr (by simp) (by simp) q)
        · split
          · exact State.holding_of_setPort s q l (op := fun u => u.protect ob.2) (fun u np => u.protect_setPort q np ob.2)
              (State.port_congr (by simp) (by simp) q)
          · split
            · exact State.holding_of_setPort s q l (op := fun u => u.writeConsumer ob.2) (fun u np => u.writeConsumer_setPort q np ob.2)
                (State.port_congr (by simp) (by simp) q)
            · rfl

theorem State.controlBeats_holding (obs : List (Nat × Beat)) : (s.holding q l).controlBeats obs = (s.controlBeats obs).holding q l := by
  induction obs generalizing s with
  | nil => rfl
  | cons ob obs ih => rw [State.controlBeats, State.controlBeats, State.controlBeat_holding, ih]

theorem State.writeRecipe_holding (off : Nat) (bs : List Beat) :
    (s.holding q l).writeRecipe off bs = (s.writeRecipe off bs).holding q l := by
  have hstored : (s.holding q l).recipeStored off bs = (s.recipeStored off bs).holding q l :=
    State.holding_of_setPort s q l (op := fun u => u.recipeStored off bs) (fun u np => u.recipeStored_setPort q np off bs)
      (State.port_congr (by simp) (by simp) q)
  have hrecipe : (s.holding q l).recipe = s.recipe := (s.setPort_fields q _).2.2.2.2.1
  rw [State.writeRecipe_eq, State.writeRecipe_eq, hstored, hrecipe]
  split
  · exact State.hardChange_holding _ q l
  · rfl

/-! ## Control-region and landing writes -/

theorem State.controlWrite_holding (w : Write) : (s.holding q l).controlWrite p w = (s.controlWrite p w).holding q l := by
  have hbase : (s.holding q l).regionBase = s.regionBase := by cases q <;> rfl
  have hocc : (s.holding q l).refusalOccupied = s.refusalOccupied := by cases q <;> rfl
  have hdrop : ∀ off, (s.holding q l).dropDecision p off w.beats = s.dropDecision p off w.beats := fun off => by cases q <;> rfl
  unfold State.controlWrite
  dsimp only
  rw [hbase, hocc, hdrop]
  split
  · rw [State.refuseWrite_holding, State.answer_holding]
  · split
    · exact s.waitAt_holding p q l _ _
    · rw [← State.forward_holding, State.takeControl, State.takeControl]
      split
      · rw [State.writeRecipe_holding]
      · rw [State.controlBeats_holding]

theorem State.takeLanding_holding (w : Write) : (s.holding q l).takeLanding p w = (s.takeLanding p w).holding q l := by
  have hrun : ((s.holding q l).landRun w).1 = (s.landRun w).1.holding q l ∧ ((s.holding q l).landRun w).2 = (s.landRun w).2 :=
    ⟨State.holding_of_setPort s q l (op := fun u => (u.landRun w).1) (fun u np => by rw [State.landRun_setPort])
      (State.port_congr (by simp [State.landRun]) (by simp [State.landRun]) q), by rw [State.holding, State.landRun_setPort]⟩
  have hoffsets : (s.holding q l).offsetsFor w.beats.length = s.offsetsFor w.beats.length := by cases q <;> rfl
  have hremap : (s.holding q l).remap = s.remap := (s.setPort_fields q _).2.2.2.2.2.2.2
  have hgrid : (s.holding q l).cells * (s.holding q l).steps = s.cells * s.steps := by cases q <;> rfl
  have hsequence : ∀ (u : State) n, (u.holding q l).setSequence n = (u.setSequence n).holding q l := fun u n => by cases q <;> rfl
  have hlanded : (s.holding q l).landed p w = (s.landed p w).holding q l := by
    rw [State.landed, State.landed, hrun.1, hremap, hoffsets, hsequence, State.answer_holding]
  have hhalt : ∀ u : State, (u.holding q l).haltStroke = u.haltStroke.holding q l := fun u => by
    have hraise : ((u.holding q l).setHaltLatch true).raise .halt = ((u.setHaltLatch true).raise .halt).holding q l :=
      State.holding_of_setPort u q l (op := fun u => (u.setHaltLatch true).raise .halt)
        (fun u np => by rw [State.setHaltLatch_setPort, State.raise_setPort]) (State.port_congr (by simp) (by simp) q)
    rw [State.haltStroke, State.haltStroke, hraise, State.endStroke_holding]
  rw [State.takeLanding_eq, State.takeLanding_eq, hrun.2, hremap, hoffsets, hgrid, hlanded]
  split
  · exact hhalt _
  · split
    · exact State.endStroke_holding _ q l _
    · rfl

theorem State.landing_holding (w : Write) : (s.holding q l).landing p w = (s.landing p w).holding q l := by
  have haccept : (s.holding q l).landingAccepted p w = s.landingAccepted p w := by cases q <;> rfl
  have hroom : (s.holding q l).roomFor w.beats.length = s.roomFor w.beats.length := by cases q <;> rfl
  unfold State.landing
  rw [haccept, hroom]
  split
  · split
    · exact s.takeLanding_holding p q l w
    · exact s.waitAt_holding p q l _ _
  · rw [State.answer_holding, State.refuseWrite_holding]

theorem State.passThrough_holding (r : Request) : (s.holding q l).passThrough p r = (s.passThrough p r).holding q l := by
  have hhazard : (s.holding q l).hazard r = s.hazard r := by cases q <;> rfl
  unfold State.passThrough
  rw [hhazard]
  split
  · exact s.waitAt_holding p q l _ _
  · exact s.forward_holding p q l _

/-- The handling of a request commutes with a change of what a port holds off. -/
theorem State.handle_holding (r : Request) : (s.holding q l).handle p r = (s.handle p r).holding q l := by
  have hregion : ∀ a, (s.holding q l).inRegion a = s.inRegion a := fun a => by cases q <;> rfl
  have hlanding : ∀ a, (s.holding q l).inLanding a = s.inLanding a := fun a => by cases q <;> rfl
  have hstroke : (s.holding q l).stroke = s.stroke := (s.setPort_fields q _).2.1
  unfold State.handle State.classify
  rw [hregion, hstroke]
  split
  · split
    · split
      · exact s.waitAt_holding p q l _ _
      · cases r with
        | write w => exact s.controlWrite_holding p q l w
        | read a n => exact s.forward_holding p q l _
    · cases r with
      | write w =>
        dsimp only
        rw [hlanding]
        split
        · exact s.landing_holding p q l w
        · exact s.passThrough_holding p q l _
      | read a n => exact s.passThrough_holding p q l _
  · exact s.answer_holding p q l _

end

end Sys2Proof.Machine

/-! PROOFS. The changes of the reset line: what the two ports present when RESET_N is deasserted (R171, R179). -/

namespace Sys2Proof.Machine

/-! ## A port that waits for nothing is left alone by the other's request -/

/-- Port q, where it waits for nothing, is as it was. -/
def State.Spares (s t : State) (q : PortId) : Prop := (∀ r c, (s.port q).status ≠ .waiting r c) → t.port q = s.port q

section
variable {s t u : State} {p q : PortId}

theorem State.Spares.refl (s : State) (q : PortId) : s.Spares s q := fun _ => rfl

theorem State.Spares.trans (a : s.Spares t q) (b : t.Spares u q) : s.Spares u q := fun h =>
  (b (by rw [a h]; exact h)).trans (a h)

theorem State.spares_of_ports (hA : t.portA = s.portA) (hS : t.portS = s.portS) (q : PortId) : s.Spares t q := fun _ =>
  State.port_congr hA hS q

theorem State.spares_setPort (s : State) (h : q ≠ p) (np : NearPort) : s.Spares (s.setPort p np) q := fun _ =>
  State.port_setPort_ne s p q np h

theorem State.spares_dropWaiting (s : State) (p q : PortId) : s.Spares (s.dropWaiting p) q := by
  by_cases hp : q = p
  · subst hp
    intro h
    unfold State.dropWaiting
    split
    · next hw => exact absurd hw (h _ _)
    all_goals rfl
  · unfold State.dropWaiting
    split
    · exact (s.spares_setPort hp _).trans (State.spares_of_ports (s := s.answer p .dropped) (by simp) (by simp) q)
    all_goals exact .refl s q

theorem State.spares_endStroke (s : State) (o : StrokeOutcome) (q : PortId) : s.Spares (s.endStroke o) q := by
  refine State.Spares.trans ?_ ((State.spares_dropWaiting _ .a q).trans (State.spares_dropWaiting _ .s q))
  split
  · exact State.spares_of_ports (by simp) (by simp) q
  · split <;> exact State.spares_of_ports (by simp) (by simp) q

theorem State.spares_controlBeat (s : State) (ob : Nat × Beat) (q : PortId) : s.Spares (s.controlBeat ob) q := by
  have habort : s.Spares s.abort.1 q := by
    unfold State.abort
    split
    case h_4 | h_5 => exact (s.spares_endStroke .aborted q).trans (State.spares_of_ports (by simp) (by simp) q)
    all_goals exact State.spares_of_ports (by simp) (by simp) q
  have hcommand : s.Spares (s.command ob.2) q := by
    have howner : s.Spares (s.ownerActs ob.2).1 q := by
      unfold State.ownerActs
      split
      · split
        · exact habort
        all_goals exact State.spares_of_ports (by simp) (by simp) q
      · exact .refl s q
    exact howner.trans (State.spares_of_ports rfl rfl q)
  unfold State.controlBeat
  dsimp only
  (repeat' split)
  case isFalse.isTrue => exact hcommand
  all_goals exact State.spares_of_ports (by simp) (by simp) q

theorem State.spares_takeControl (s : State) (off : Nat) (bs : List Beat) (q : PortId) : s.Spares (s.takeControl off bs) q := by
  have hbeats : ∀ (obs : List (Nat × Beat)) (u : State), u.Spares (u.controlBeats obs) q := fun obs => by
    induction obs with
    | nil => exact fun u => .refl u q
    | cons ob obs ih => exact fun u => (u.spares_controlBeat ob q).trans (ih _)
  have hstored : s.Spares (s.recipeStored off bs) q := State.spares_of_ports (by simp) (by simp) q
  unfold State.takeControl
  split
  · rw [State.writeRecipe_eq]
    split
    · refine hstored.trans ?_
      unfold State.hardChange
      split
      case h_4 | h_5 => exact State.spares_endStroke _ _ q
      all_goals exact State.spares_of_ports (by simp) (by simp) q
    · exact hstored
  · exact hbeats _ s

theorem State.spares_takeLanding (s : State) (h : q ≠ p) (w : Write) : s.Spares (s.takeLanding p w) q := by
  have hlanded : s.Spares (s.landed p w) q :=
    (State.spares_of_ports (by simp [State.landRun]) (by simp [State.landRun]) q).trans (State.spares_setPort _ h _)
  rw [State.takeLanding_eq]
  split
  · refine hlanded.trans (State.Spares.trans ?_ (State.spares_endStroke _ .halted q))
    exact State.spares_of_ports (by simp) (by simp) q
  · split
    · exact hlanded.trans (State.spares_endStroke _ .complete q)
    · exact hlanded

/-- A request handled at one port spares the other, where that waits for nothing. -/
theorem State.spares_handle (s : State) (h : q ≠ p) (r : Request) : s.Spares (s.handle p r) q := by
  have hpass : ∀ r, s.Spares (s.passThrough p r) q := fun r => by
    unfold State.passThrough
    split <;> exact s.spares_setPort h _
  unfold State.handle State.classify
  split
  · split
    · split
      · exact s.spares_setPort h _
      · cases r with
        | read a n => exact s.spares_setPort h _
        | write w =>
          dsimp only
          unfold State.controlWrite
          dsimp only
          split
          · exact (State.spares_of_ports (by simp) (by simp) q).trans (State.spares_setPort (s.refuseWrite .protect w.addr) h _)
          · split
            · exact s.spares_setPort h _
            · exact (s.spares_takeControl _ _ q).trans (State.spares_setPort _ h _)
    · cases r with
      | read a n => exact hpass _
      | write w =>
        dsimp only
        split
        · unfold State.landing
          split
          · split
            · exact s.spares_takeLanding h w
            · exact s.spares_setPort h _
          · exact (s.spares_setPort h _).trans (State.spares_of_ports (s := s.answer p .dropped) (by simp) (by simp) q)
        · exact hpass _
  · exact s.spares_setPort h _

/-- The handling of a request leaves the reset line and what both ports hold off. -/
theorem State.heldOff_handle (s : State) (p q : PortId) (r : Request) : ((s.handle p r).port q).heldOff = (s.port q).heldOff := by
  have hself : s.holding q (s.port q).heldOff = s := by cases q <;> rfl
  have h := s.handle_holding p q (s.port q).heldOff r
  rw [hself] at h
  rw [h, State.holding, State.port_setPort_self]

/-! ### The reset line -/

theorem State.resetN_ownerActs (s : State) (b : Beat) : (s.ownerActs b).1.lines.resetN = s.lines.resetN := by
  have hlatch : ∀ (u : State) v, (u.setHaltLatch v).lines.resetN = u.lines.resetN := fun u v => by
    rw [State.setHaltLatch, State.dirtyIf_eq]
  have hforce : ∀ (u : State) v, (u.setForce v).lines.resetN = u.lines.resetN := fun u v => by
    rw [State.setForce, State.dirtyIf_eq]
  unfold State.ownerActs
  split
  · split
    · simp
    · unfold State.haltClear
      split
      · exact hlatch s _
      · rfl
    · exact hforce s _
    · unfold State.forceHaltOff
      split
      · rfl
      · exact hforce s _
    · exact hforce s _
    · simp
    · rfl
  · rfl

theorem State.resetN_controlBeat (s : State) (ob : Nat × Beat) : (s.controlBeat ob).lines.resetN = s.lines.resetN := by
  unfold State.controlBeat
  dsimp only
  split
  · split <;> simp
  · split
    · exact s.resetN_ownerActs ob.2
    · split
      · rw [State.acknowledge, State.dirtyIf_eq]
      · split
        · rw [State.enableEvents, State.dirtyIf_eq]
        · split
          · rw [State.protect_eq]
          · split
            · unfold State.writeConsumer
              dsimp only
              split <;> simp
            · rfl

theorem State.resetN_takeControl (s : State) (off : Nat) (bs : List Beat) : (s.takeControl off bs).lines.resetN = s.lines.resetN := by
  have hbeats : ∀ (obs : List (Nat × Beat)) (u : State), (u.controlBeats obs).lines.resetN = u.lines.resetN := fun obs => by
    induction obs with
    | nil => exact fun u => rfl
    | cons ob obs ih => exact fun u => (ih _).trans (u.resetN_controlBeat ob)
  unfold State.takeControl
  split
  · rw [State.writeRecipe_eq]
    split <;> simp
  · exact hbeats _ s

theorem State.resetN_takeLanding (s : State) (p : PortId) (w : Write) : (s.takeLanding p w).lines.resetN = s.lines.resetN := by
  have hlanded : (s.landed p w).lines.resetN = s.lines.resetN := by simp [State.landed, State.landRun]
  rw [State.takeLanding_eq]
  split
  · rw [State.haltStroke, ← hlanded, State.setHaltLatch, State.dirtyIf_eq]
    simp
  · split
    · simp
    · exact hlanded

theorem State.resetN_handle (s : State) (p : PortId) (r : Request) : (s.handle p r).lines.resetN = s.lines.resetN := by
  have hpass : ∀ r, (s.passThrough p r).lines.resetN = s.lines.resetN := fun r => by
    unfold State.passThrough
    split <;> simp
  unfold State.handle State.classify
  split
  · split
    · split
      · simp
      · cases r with
        | read a n => simp
        | write w =>
          dsimp only
          unfold State.controlWrite
          dsimp only
          split
          · simp
          · split
            · simp
            · simpa using s.resetN_takeControl _ _
    · cases r with
      | read a n => exact hpass _
      | write w =>
        dsimp only
        split
        · unfold State.landing
          split
          · split
            · exact s.resetN_takeLanding p w
            · simp
          · simp
        · exact hpass _
  · simp

/-! ## The oldest request held off -/

/-- A port that holds nothing off, or whose request a warm reset has abandoned, presents nothing. -/
def State.presentsNone (s : State) (p : PortId) : Prop := (s.port p).heldOff = [] ∨ ∃ r i, (s.port p).status = .abandoned r i

theorem State.releaseHeld_of_none (h : s.presentsNone p) : s.releaseHeld p = s := by
  unfold State.releaseHeld
  obtain h | ⟨r, i, h⟩ := h
  · rw [h]
    exact ite_self s
  · rw [if_neg]
    simp [State.portReady, h]

theorem State.releaseHeld_of_held {r : Request} {rs : List Request} (hf : (s.port p).status = .free) (hn : s.lines.resetN = false)
    (hh : (s.port p).heldOff = r :: rs) : s.releaseHeld p = (s.handle p r).holding p rs := by
  have hready : s.portReady p = true := by simp [State.portReady, hf, hn]
  unfold State.releaseHeld
  rw [if_pos hready, hh]
  exact s.handle_holding p p rs r

/-- The oldest request held off, presented with nothing held off before it. -/
theorem exec_presented {r : Request} (hf : (s.port p).status = .free) (hn : s.lines.resetN = false) :
    exec (.passThroughRequest p r) (s.holding p []) = .next ((s.handle p r).holding p []) := by
  have hopen : (s.holding p []).portOpen p := by
    rw [State.holding, State.portOpen, State.port_setPort_self]
    exact ⟨hf, rfl, by simpa using hn⟩
  rw [exec_requestOf (c := .passThroughRequest p r) _ rfl, presentRequest_of_open r hopen, State.handle_holding]

theorem State.holding_holding (s : State) (p : PortId) (l l' : List Request) : (s.holding p l).holding p l' = s.holding p l' := by
  cases p <;> rfl

theorem State.holding_comm (s : State) (h : q ≠ p) (l l' : List Request) :
    (s.holding p l).holding q l' = (s.holding q l').holding p l := by
  cases p <;> cases q <;> first | rfl | exact absurd rfl h

theorem State.presentsNone_handle (h : q ≠ p) (hq : s.presentsNone q) (r : Request) : (s.handle p r).presentsNone q := by
  obtain hh | ⟨r', i, hs⟩ := hq
  · exact .inl ((s.heldOff_handle p q r).trans hh)
  · refine .inr ⟨r', i, ?_⟩
    rw [s.spares_handle h r fun r c => by rw [hs]; simp]
    exact hs

end

/-! ## The obligation -/

theorem exec_resetNDeasserted {s : State} (f : PortId) (h : s.lines.resetN = true) : exec (.resetNDeasserted f) s =
    .next (({ s with lines := { s.lines with resetN := false } } : State).releaseHeld f |>.releaseHeld (PortId.other f)) := by
  change execResetNDeasserted f s = _
  rw [execResetNDeasserted, if_pos h, State.endReset]

theorem PortId.other_ne (p : PortId) : PortId.other p ≠ p := by cases p <;> decide

/-- Settles O6. -/
theorem resetLineChanges : Obligations.ResetLineChanges := by
  intro s low quiet
  have hn : low.lines.resetN = false := rfl
  have hport : ∀ p, low.port p = s.port p := fun p => by cases p <;> rfl
  have hquiet : ∀ p, quiet p → low.presentsNone p := fun p h => by
    rw [State.presentsNone, hport]
    exact h
  refine ⟨fun h => ?_, fun f h => ?_, fun f h ha hs => ?_, fun f p r rs h hf hh hq t ht => ?_,
    fun f q r r' rs rs' h hqf hf hh hf' hh' t u ht hu => ?_⟩
  · change execWarmReset s = _
    rw [execWarmReset, if_pos h]
  · change execResetNDeasserted f s = _
    rw [execResetNDeasserted, if_neg (by simp [h])]
  · have hnone : ∀ p, low.releaseHeld p = low := fun p => by
      cases p
      · exact State.releaseHeld_of_none (hquiet .a ha)
      · exact State.releaseHeld_of_none (hquiet .s hs)
    rw [exec_resetNDeasserted f h]
    exact congrArg Host.Outcome.next ((congrArg (fun v : State => v.releaseHeld (PortId.other f)) (hnone f)).trans (hnone _))
  · rw [← hport] at hf hh ht
    have hpresented := exec_presented (r := r) hf hn
    obtain rfl := Host.Outcome.next.inj (hpresented.symm.trans ht)
    have htaken : low.releaseHeld p = (low.handle p r).holding p rs := State.releaseHeld_of_held hf hn hh
    have hother : low.presentsNone (PortId.other p) := hquiet _ hq
    have hafter : ((low.handle p r).holding p rs).presentsNone (PortId.other p) := by
      have hheld := State.presentsNone_handle (s := low) (PortId.other_ne p) hother r
      rw [State.presentsNone, State.holding, State.port_setPort_ne _ _ _ _ (PortId.other_ne p)]
      exact hheld
    have hboth : (low.releaseHeld f).releaseHeld (PortId.other f) = (low.handle p r).holding p rs := by
      by_cases hpf : f = p
      · rw [hpf, htaken, State.releaseHeld_of_none hafter]
      · have hfp : f = PortId.other p := by cases f <;> cases p <;> first | rfl | exact absurd rfl hpf
        have hpo : PortId.other f = p := by rw [hfp]; cases p <;> rfl
        rw [hpo, hfp, State.releaseHeld_of_none hother, htaken]
    rw [exec_resetNDeasserted f h]
    refine congrArg Host.Outcome.next (hboth.trans ?_)
    exact ((low.handle p r).holding_holding p [] rs).symm
  · subst hqf
    have hne := PortId.other_ne f
    rw [← hport] at hf hh hf' hh'
    have hfirst : low.releaseHeld f = (low.handle f r).holding f rs := State.releaseHeld_of_held hf hn hh
    have hport' : (low.handle f r).port (PortId.other f) = low.port (PortId.other f) :=
      low.spares_handle hne r fun r c => by rw [hf']; simp
    have hn' : (low.handle f r).lines.resetN = false := (low.resetN_handle f r).trans hn
    have hsecond : ((low.handle f r).holding f rs).releaseHeld (PortId.other f) =
        (((low.handle f r).handle (PortId.other f) r').holding f rs).holding (PortId.other f) rs' := by
      have hp : ((low.handle f r).holding f rs).port (PortId.other f) = low.port (PortId.other f) :=
        (State.port_setPort_ne _ _ _ _ hne).trans hport'
      rw [State.releaseHeld_of_held (by rw [hp, hf']) (by simpa [State.holding] using hn') (by rw [hp, hh']), State.handle_holding]
    have hcleared : (low.setPort f { s.port f with heldOff := [] }).setPort (PortId.other f)
        { s.port (PortId.other f) with heldOff := [] } = (low.holding (PortId.other f) []).holding f [] := by
      rw [State.holding_comm _ hne.symm, ← hport, ← hport, State.holding, State.holding, State.port_setPort_ne _ _ _ _ hne]
    have ht' : t = ((low.handle f r).holding (PortId.other f) []).holding f [] := by
      rw [hcleared, exec_presented (s := low.holding (PortId.other f) [])
        (by rw [State.port_holding_status, hf]) (by simpa [State.holding] using hn), State.handle_holding] at ht
      exact (Host.Outcome.next.inj ht).symm
    have hu' : u = (((low.handle f r).handle (PortId.other f) r').holding f []).holding (PortId.other f) [] := by
      rw [ht', State.holding_comm _ hne.symm, exec_presented (s := (low.handle f r).holding f [])
        (by rw [State.port_holding_status, hport', hf']) (by simpa [State.holding] using hn'), State.handle_holding] at hu
      exact (Host.Outcome.next.inj hu).symm
    rw [exec_resetNDeasserted f h, hu']
    refine congrArg Host.Outcome.next ?_
    change (low.releaseHeld f).releaseHeld (PortId.other f) = _
    rw [hfirst, hsecond]
    cases f <;> rfl

end Sys2Proof.Machine
